-- ==== Sys2Proof/Word.lean ====
section
/-! DEFINITION. The exact widths of the engine's values (R3, R42): each role has one width and a value
of another width cannot be written. A bit vector of width n carries a bit sequence with sequence
index 0 on its most significant bit (R6, R40). -/

namespace Sys2Proof

/-- A command word on port `cmd`, 12 bits (R60). -/
abbrev CmdWord := BitVec 12

/-- A master key, 10 bits (R3). -/
abbrev Key := BitVec 10

/-- Half of the permuted master key, 5 bits (R3, R120). -/
abbrev KeyHalf := BitVec 5

/-- A round subkey, 8 bits (R3, R20). -/
abbrev Subkey := BitVec 8

/-- A plaintext or ciphertext block, 8 bits (R3). -/
abbrev Block := BitVec 8

/-- A half-block, 4 bits (R3, R21). -/
abbrev Half := BitVec 4

/-- An S-box output code, 2 bits (R3, R101). -/
abbrev SboxCode := BitVec 2

end Sys2Proof
end

