-- ==== Sys2Proof/Machine/Operands.lean ====
section
/-! DEFINITION. The fields of the command word and the operands assembled from them (R60, R64, R65). -/

namespace Sys2Proof.Machine

/-- `op` = `cmd[11:10]` (R60). -/
def opField (w : CmdWord) : BitVec 2 := w.extractLsb' 10 2

/-- `arg` = `cmd[9:0]` (R60). -/
def argField (w : CmdWord) : BitVec 10 := w.extractLsb' 0 10

/-- `arg[9:8]` = `cmd[9:8]`, which an ENCRYPT keeps at 00 (R62, R67). -/
def overField (w : CmdWord) : BitVec 2 := w.extractLsb' 8 2

/-- The master key operand, `cmd[9:0]` with sequence index 0 on `cmd[9]` (R64). -/
def keyOperand (w : CmdWord) : Key := argField w

/-- The plaintext operand, `cmd[7:0]` with sequence index 0 on `cmd[7]` (R65). -/
def blockOperand (w : CmdWord) : Block := w.extractLsb' 0 8

/-- A command word from its two fields, `op` on the left (R60). -/
def cmdOf (op : BitVec 2) (arg : BitVec 10) : CmdWord := op ++ arg

end Sys2Proof.Machine
end

