-- ==== Sys2Proof/Syntax.lean ====
section
/-! DEFINITION. The commands: one constructor per row of the opcode table (R62). Operand bits that a
row ignores are kept, so that a command and its word determine each other (log entry 8). -/

namespace Sys2Proof

/-- One accepted command word, as R62's rows tell them apart. -/
inductive Instr where
  /-- NOP, `op` = 00: all 1024 values of `arg` are NOP (R63, R136). -/
  | nop (arg : BitVec 10)
  /-- LOADKEY, `op` = 01, with the master key in `cmd[9:0]` (R64, R123). -/
  | loadkey (key : Key)
  /-- ENCRYPT, `op` = 10 and `cmd[9:8]` = 00, with the plaintext in `cmd[7:0]` (R65, R133). -/
  | encrypt (plaintext : Block)
  /-- Reserved: `op` = 10 and `cmd[9:8]` = 01, an over-long block (R67). -/
  | reservedBadlen01 (x : BitVec 8)
  /-- Reserved: `op` = 10 and `cmd[9:8]` = 10, an over-long block (R67). -/
  | reservedBadlen10 (x : BitVec 8)
  /-- Reserved: `op` = 10 and `cmd[9:8]` = 11, an over-long block (R67). -/
  | reservedBadlen11 (x : BitVec 8)
  /-- Reserved: `op` = 11 (R66). -/
  | reservedBadop (x : BitVec 10)
  deriving DecidableEq, Repr

/-- The commands of the textual syntax of R71, before any check: operands are the characters as
written, sequence index 0 first. -/
inductive SourceCmd where
  /-- `NOP`. -/
  | nop
  /-- `LOADKEY kkkkkkkkkk`. -/
  | loadkey (digits : List Char)
  /-- `ENCRYPT pppppppp`. -/
  | encrypt (digits : List Char)
  /-- `.word 0xHHH`, the digits after `0x`. -/
  | word (hexDigits : List Char)
  deriving DecidableEq, Repr

/-- One line of a program in the sense of R71 and R73. -/
inductive SourceLine where
  /-- A plain command line: presented at the next step at which `cmd_ready` = 1 is seen. -/
  | plain (c : SourceCmd)
  /-- A line with the prefix `!`: presented at the very next step, ready or not. -/
  | bang (c : SourceCmd)
  /-- `.reset`: not a command, one step with `rst` = 1. -/
  | reset
  deriving DecidableEq, Repr

end Sys2Proof
end

