-- ==== Sys2Proof/WellFormed.lean ====
section
/-! DEFINITION. Which terms of the syntax are commands. A term of `Instr` is always one: the widths
are exact and all 4096 words have a behaviour (R69). The textual syntax has terms that are no command
(R71), and a permutation table has lists that are no table of its input width (R80, C2). -/

namespace Sys2Proof

/-- Every `Instr` stands for words of R62's rows: each field has its field's exact width, so there is
nothing left to refuse (R42, R69). -/
def Instr.wellFormed : Instr → Bool
  | .nop _ => true
  | .loadkey _ => true
  | .encrypt _ => true
  | .reservedBadlen01 _ => true
  | .reservedBadlen10 _ => true
  | .reservedBadlen11 _ => true
  | .reservedBadop _ => true

/-- A binary digit of the source's string interface (R5, R71). -/
def isBinaryDigit (c : Char) : Bool := c == '0' || c == '1'

/-- A hexadecimal digit of `.word` (R71), in either letter case (log entry 10). -/
def isHexDigit (c : Char) : Bool :=
  ('0' ≤ c && c ≤ '9') || ('A' ≤ c && c ≤ 'F') || ('a' ≤ c && c ≤ 'f')

/-- R71: a LOADKEY operand is exactly ten characters 0 or 1, an ENCRYPT operand exactly eight, a
`.word` operand three hexadecimal digits; anything else is not a command of this syntax. -/
def SourceCmd.wellFormed : SourceCmd → Bool
  | .nop => true
  | .loadkey ds => ds.length == 10 && ds.all isBinaryDigit
  | .encrypt ds => ds.length == 8 && ds.all isBinaryDigit
  | .word ds => ds.length == 3 && ds.all isHexDigit

/-- A line is well formed when the command it holds is (R71). -/
def SourceLine.wellFormed : SourceLine → Bool
  | .plain c => c.wellFormed
  | .bang c => c.wellFormed
  | .reset => true

/-- A list of source indices is a permutation table for inputs of length `n` exactly when every
entry is less than `n`; an entry equal to `n` is already out of range (R80, C2). -/
def tableWellFormed (n : Nat) (table : List Nat) : Bool := table.all (· < n)

end Sys2Proof
end

