-- ==== Sys2Proof/Decode.lean ====
section
/-! DEFINITION. Decode and encode of the command word (R60 to R70). Decode is total on 12-bit words
(R68); a number that is no 12-bit word is rejected by name. -/

namespace Sys2Proof

open Sys2Proof.Machine

/-- R68, steps (1) to (6): the row a word selects and its operand. -/
def decode (w : CmdWord) : Instr :=
  if opField w = 0b00#2 then .nop (argField w)
  else if opField w = 0b01#2 then .loadkey (keyOperand w)
  else if opField w = 0b10#2 then
    if overField w = 0b00#2 then .encrypt (blockOperand w)
    else if overField w = 0b01#2 then .reservedBadlen01 (blockOperand w)
    else if overField w = 0b10#2 then .reservedBadlen10 (blockOperand w)
    else .reservedBadlen11 (blockOperand w)
  else .reservedBadop (argField w)

/-- Why a number is no command word. -/
inductive DecodeError where
  /-- The number needs more than the 12 bits of port `cmd` (R70): there is no such word. -/
  | widerThanCmd
  deriving DecidableEq, Repr

/-- Decode of a number: every number below 4096 is a command word, no other number is (R69, R70). -/
def decodeNat (w : Nat) : Except DecodeError Instr :=
  if w < 4096 then .ok (decode (BitVec.ofNat 12 w)) else .error .widerThanCmd

/-- The word of a command (R62, R64, R65): the row's match with the operand in its field. -/
def encode : Instr → CmdWord
  | .nop arg => cmdOf 0b00#2 arg
  | .loadkey key => cmdOf 0b01#2 key
  | .encrypt plaintext => cmdOf 0b10#2 (0b00#2 ++ plaintext)
  | .reservedBadlen01 x => cmdOf 0b10#2 (0b01#2 ++ x)
  | .reservedBadlen10 x => cmdOf 0b10#2 (0b10#2 ++ x)
  | .reservedBadlen11 x => cmdOf 0b10#2 (0b11#2 ++ x)
  | .reservedBadop x => cmdOf 0b11#2 x

/-- The opcode table's mask of a command's row (R62). -/
def rowMask : Instr → CmdWord
  | .nop _ => 0xC00#12
  | .loadkey _ => 0xC00#12
  | .encrypt _ => 0xF00#12
  | .reservedBadlen01 _ => 0xF00#12
  | .reservedBadlen10 _ => 0xF00#12
  | .reservedBadlen11 _ => 0xF00#12
  | .reservedBadop _ => 0xC00#12

/-- The opcode table's match of a command's row (R62). -/
def rowMatch : Instr → CmdWord
  | .nop _ => 0x000#12
  | .loadkey _ => 0x400#12
  | .encrypt _ => 0x800#12
  | .reservedBadlen01 _ => 0x900#12
  | .reservedBadlen10 _ => 0xA00#12
  | .reservedBadlen11 _ => 0xB00#12
  | .reservedBadop _ => 0xC00#12

/-- The command the decoder reads from the table's bits `w`: the table's bit 0 is `cmd[0]`, bits at
`nbits` and above are 0, and a number wider than `cmd` is refused (log entry 9). -/
def decodeTableWord (nbits w : Nat) : Option Instr :=
  match decodeNat (w % 2 ^ nbits) with
  | .ok i => some i
  | .error _ => none

end Sys2Proof
end

