-- ==== Sys2Proof/Config.lean ====
section
/-! DEFINITION. What is fixed for the engine (R1, R4) and the free values: the contents a reset step
leaves in the five data registers, which the spec calls unspecified (R35, R180, U6). -/

namespace Sys2Proof.Config

/-- The identifying string this spec uses (R1). -/
def identifier : String := "SDES-CORE-E"

/-- Steps a LOADKEY takes, its accepting step counted (R4, R190). -/
def loadkeySteps : Nat := 1

/-- Steps a NOP takes, its accepting step counted (R190). -/
def nopSteps : Nat := 1

/-- Steps an ENCRYPT with `KV` = 1 takes, its accepting step counted (R4, R190). -/
def encryptSteps : Nat := 3

/-- FREE VALUE: what `K1` holds after the reset step with draw number `n` (R180 leaves it
unspecified; log entry 4). Nothing constrains it. -/
opaque resetK1 (n : Nat) : Subkey

/-- FREE VALUE: what `K2` holds after the reset step with draw number `n` (R180; log entry 4). -/
opaque resetK2 (n : Nat) : Subkey

/-- FREE VALUE: what `L` holds after the reset step with draw number `n` (R180; log entry 4). -/
opaque resetL (n : Nat) : Half

/-- FREE VALUE: what `R` holds after the reset step with draw number `n` (R180; log entry 4). -/
opaque resetR (n : Nat) : Half

/-- FREE VALUE: what `DOUT` holds after the reset step with draw number `n` (R180; log entry 4). -/
opaque resetDout (n : Nat) : Block

end Sys2Proof.Config
end

