-- ==== Sys2Proof/Machine/Primitives.lean ====
section
/-! DEFINITION. The bit-sequence primitives and the six permutation networks (R80 to R92). Each
network is typed by the one width it is wired for, so that R92's contract violation cannot be written
(U1, U2, U9). -/

namespace Sys2Proof.Machine

/-- `s{i}` = `v[n-1-i]`, the element at sequence index `i`, index 0 on the most significant bit (R5,
R6). -/
def seqBit {n : Nat} (v : BitVec n) (i : Fin n) : Bool := v.getLsbD (n - 1 - i.val)

/-- `bin2(x, y)` = 2x + y, the first-written digit high (R7), on two wires. -/
def bin2 (x y : Bool) : BitVec 2 := BitVec.cons x (BitVec.ofBool y)

/-- `permute(input, table)` (R80): element `i` of the result is element `table{i}` of the input. A
table is typed by its source length, so every entry is a valid index (C2). -/
def permute {n : Nat} (input : BitVec n) : (table : List (Fin n)) → BitVec table.length
  | [] => 0#0
  | t :: ts => BitVec.cons (seqBit input t) (permute input ts)

/-- `rotl(input, n)` for `n` less than the length (R81, U9). -/
def rotl {m : Nat} (input : BitVec m) (n : Fin m) : BitVec m := input.rotateLeft n.val

/-- `xor(a, b)` on sequences of equal length (R82, U2). -/
def seqXor {m : Nat} (a b : BitVec m) : BitVec m := a ^^^ b

/-- `split(s)` of a sequence of length 2h: left is the high half, right the low half (R91). -/
def split {h : Nat} (s : BitVec (h + h)) : BitVec h × BitVec h :=
  (s.extractLsb' h h, s.extractLsb' 0 h)

/-- `a ‖ b`, `a` on the left, that is in the high bits (R91). -/
def join {m n : Nat} (a : BitVec m) (b : BitVec n) : BitVec (m + n) := a ++ b

/-- R84's table. -/
def tableP10 : List (Fin 10) := [2, 4, 1, 6, 3, 9, 0, 8, 7, 5]
/-- R85's table. -/
def tableP8 : List (Fin 10) := [5, 2, 6, 3, 7, 4, 9, 8]
/-- R86's table. -/
def tableIP : List (Fin 8) := [1, 5, 2, 0, 3, 7, 4, 6]
/-- R87's table. -/
def tableFP : List (Fin 8) := [3, 0, 2, 4, 6, 1, 7, 5]
/-- R88's table. -/
def tableEP : List (Fin 4) := [3, 0, 1, 2, 1, 2, 3, 0]
/-- R89's table. -/
def tableP4 : List (Fin 4) := [1, 3, 2, 0]

/-- `P10`, 10 bits to 10 (R84). -/
def p10 (s : BitVec 10) : BitVec 10 := permute s tableP10
/-- `P8`, 10 bits to 8 (R85). -/
def p8 (s : BitVec 10) : BitVec 8 := permute s tableP8
/-- `IP`, the initial permutation (R86). -/
def ip (s : BitVec 8) : BitVec 8 := permute s tableIP
/-- `FP`, the final permutation (R87). -/
def fp (s : BitVec 8) : BitVec 8 := permute s tableFP
/-- `EP`, the expansion, 4 bits to 8 (R88, C1). -/
def ep (s : BitVec 4) : BitVec 8 := permute s tableEP
/-- `P4`, 4 bits to 4 (R89). -/
def p4 (s : BitVec 4) : BitVec 4 := permute s tableP4

end Sys2Proof.Machine
end

