-- ==== Sys2Proof/Machine/Sbox.lean ====
section
/-! DEFINITION. The S-box array: two read-only memories of 16 entries of 2 bits (R44, R45, R100 to
R104). They are constants, no part of the state (R34). -/

namespace Sys2Proof.Machine

/-- The contents of one S-box ROM in address order, that is the source's 4 by 4 table read row by
row (R104). -/
abbrev SboxRom := Vector SboxCode 16

/-- S-box 0 (R102). -/
def romS0 : SboxRom :=
  #v[0b01, 0b00, 0b11, 0b10,
     0b11, 0b10, 0b01, 0b00,
     0b00, 0b10, 0b01, 0b11,
     0b11, 0b01, 0b11, 0b10]

/-- S-box 1 (R103). -/
def romS1 : SboxRom :=
  #v[0b00, 0b01, 0b10, 0b11,
     0b10, 0b00, 0b01, 0b11,
     0b11, 0b00, 0b01, 0b00,
     0b10, 0b01, 0b00, 0b11]

/-- `RomRead(T, a)`: the entry at 4-bit address `a`; all 16 addresses are populated (R45, R104). -/
def romRead (t : SboxRom) (a : BitVec 4) : SboxCode := t.get a.toFin

/-- The row of a 4-bit input `b0 b1 b2 b3`, `binary(b0 b3)` (R101). -/
def sboxRow (x : BitVec 4) : BitVec 2 := bin2 (seqBit x 0) (seqBit x 3)

/-- The column of a 4-bit input `b0 b1 b2 b3`, `binary(b1 b2)` (R101). -/
def sboxCol (x : BitVec 4) : BitVec 2 := bin2 (seqBit x 1) (seqBit x 2)

/-- `SBOX(x, T)`: the entry at address `row ‖ col` (R45, R101, R104). -/
def sbox (x : BitVec 4) (t : SboxRom) : SboxCode := romRead t (join (sboxRow x) (sboxCol x))

/-- `S0(x)` (R102). -/
def s0 (x : BitVec 4) : SboxCode := sbox x romS0

/-- `S1(x)` (R103). -/
def s1 (x : BitVec 4) : SboxCode := sbox x romS1

end Sys2Proof.Machine
end

