-- ==== Sys2Proof/Machine/Cipher.lean ====
section
/-! DEFINITION. The combinational functions: the round function (R110 to R115), the key schedule
(R120) and the encrypt transform (R130). None reads or writes state. -/

namespace Sys2Proof.Machine

/-- R113, step 3 of F: S-box 0 on the left half, S-box 1 on the right, joined. -/
def substitute (x : BitVec 8) : BitVec 4 :=
  join (s0 (split (h := 4) x).1) (s1 (split (h := 4) x).2)

/-- `F(right, subkey)`: expand, mix the key in, substitute, permute (R110 to R114). -/
def roundF (right : Half) (subkey : Subkey) : Half :=
  p4 (substitute (seqXor (ep right) subkey))

/-- R120, steps 2 and 3: the permuted key split and both halves rotated by 1. -/
def onceRotated (key : Key) : KeyHalf × KeyHalf :=
  let (l0, r0) := split (h := 5) (p10 key)
  (rotl l0 1, rotl r0 1)

/-- `KS(key)`: subkey 1 from the halves rotated by 1, subkey 2 from the same halves rotated by 2
more (R120). -/
def keySchedule (key : Key) : Subkey × Subkey :=
  let (l1, r1) := onceRotated key
  (p8 (join l1 r1), p8 (join (rotl l1 2) (rotl r1 2)))

/-- R130, steps 1 and 2: the two halves of `IP(p)`. -/
def initialHalves (p : Block) : Half × Half := split (h := 4) (ip p)

/-- One Feistel round with the swap: next left = old right, next right = old left xor F (R130,
step 3; R134). -/
def swapRound (subkey : Subkey) (lr : Half × Half) : Half × Half :=
  (lr.2, seqXor lr.1 (roundF lr.2 subkey))

/-- The last round, without a swap: left becomes left xor F, right stays (R130, step 4; R135). -/
def lastRound (subkey : Subkey) (lr : Half × Half) : Half × Half :=
  (seqXor lr.1 (roundF lr.2 subkey), lr.2)

/-- The halves of the pre-output: `finalLeft` and the post-swap right (R130, step 5). -/
def preOutput (k1 k2 : Subkey) (p : Block) : Half × Half :=
  lastRound k2 (swapRound k1 (initialHalves p))

/-- `FP(left ‖ right)` (R130, steps 5 and 6; R135). -/
def finish (lr : Half × Half) : Block := fp (join lr.1 lr.2)

/-- `ENC(k1, k2, p)` (R130). -/
def enc (k1 k2 : Subkey) (p : Block) : Block := finish (preOutput k1 k2 p)

end Sys2Proof.Machine
end

