-- ==== Sys2Proof/Machine/State.lean ====
section
/-! DEFINITION. The engine's state (R20 to R28, R35), the values its input ports will have at the
coming steps (R31), and why a step can stop. -/

namespace Sys2Proof.Machine

/-- `ST`, the sequencer state; all four 2-bit codes are legal (R25, R36). -/
inductive SeqState where
  /-- No encryption in progress; a command on `cmd` is accepted at this step. -/
  | idle
  /-- L, R hold the halves of IP(plaintext); this step performs round 1. -/
  | round1
  /-- L, R hold the post-swap halves; this step performs round 2 and the final permutation. -/
  | round2
  /-- A fault has been recorded; nothing changes until reset. -/
  | fault
  deriving DecidableEq, Repr

/-- Why state FAULT was entered (R151). -/
inductive FaultCause where
  /-- The accepted command has the reserved opcode 11 (R66). -/
  | badop
  /-- The accepted command is an ENCRYPT with an over-long operand (R67). -/
  | badlen
  /-- ENCRYPT was accepted with `KV` = 0 (R133). -/
  | nokey
  deriving DecidableEq, Repr

/-- The values on the input ports at one step (R31); `clk` is the step itself (R30). -/
structure InPorts where
  /-- Synchronous reset, active high. -/
  rst : Bool
  /-- The command word. -/
  cmd : CmdWord
  deriving DecidableEq, Repr

/-- Everything the spec gives the engine (R20 to R28), and two fields of the model's own: `inputs`
(log entry 1) and `draws` (log entry 4). -/
structure State where
  /-- `K1[7:0]`, subkey 1 (R20). -/
  k1 : Subkey
  /-- `K2[7:0]`, subkey 2 (R20). -/
  k2 : Subkey
  /-- `L[3:0]`, the left half-block (R21). -/
  l : Half
  /-- `R[3:0]`, the right half-block (R21). -/
  r : Half
  /-- `DOUT[7:0]`, the ciphertext of the last completed encryption (R22). -/
  dout : Block
  /-- `ST[1:0]` (R25). -/
  st : SeqState
  /-- `KV`, key valid (R26). -/
  kv : Bool
  /-- `DV`, data valid (R27). -/
  dv : Bool
  /-- `FCAUSE[1:0]`; none is code 00, no fault since reset (R28, R151). -/
  fcause : Option FaultCause
  /-- The model's own: what the host drives on the input ports at the coming steps, the next step's
  values first; past its end the host is idle (log entries 1 and 2). -/
  inputs : List InPorts
  /-- The model's own: how many reset steps have drawn free values so far (log entry 4). -/
  draws : Nat
  deriving DecidableEq, Repr

/-- The state after a reset step (R35). `K1`, `K2`, `L`, `R`, `DOUT` are unspecified there: the zeros
are the model's DESIGN CHOICE (log entry 3). -/
def State.reset : State :=
  { k1 := 0, k2 := 0, l := 0, r := 0, dout := 0,
    st := .idle, kv := false, dv := false, fcause := none,
    inputs := [], draws := 0 }

/-- Reasons for which the machine stops. There are none: the spec's fault is the state FAULT, which
a step enters and stays in (R154, R156), and every operation is total (log entry 5). -/
inductive Fault where
  deriving DecidableEq, Repr

/-- Reasons for which a command has no meaning in the model. -/
inductive Refusal where
  /-- The instruction with this mnemonic has no meaning yet. Raised by nobody: every row of the opcode
  table has its meaning. Safe. -/
  | notModelled (mnemonic : String)
  deriving DecidableEq, Repr

end Sys2Proof.Machine
end

