-- ==== Sys2Proof/Machine/Flags.lean ====
section
/-! DEFINITION. The codes of `ST` and `FCAUSE`, the status signals and the output ports, each a
function of the state alone (R25, R28, R29, R32, R33). -/

namespace Sys2Proof.Machine

/-- The 2-bit code of `ST` (R25). -/
def SeqState.code : SeqState → BitVec 2
  | .idle => 0b00#2
  | .round1 => 0b01#2
  | .round2 => 0b10#2
  | .fault => 0b11#2

/-- The 2-bit code of `FCAUSE` (R28, R151). -/
def causeCode : Option FaultCause → BitVec 2
  | none => 0b00#2
  | some .badop => 0b01#2
  | some .badlen => 0b10#2
  | some .nokey => 0b11#2

/-- `READY` = (`ST` is IDLE) (R29). -/
def State.ready (s : State) : Bool := s.st == .idle

/-- `BUSY` = (`ST` is ROUND1 or ROUND2) (R29). -/
def State.busy (s : State) : Bool := s.st == .round1 || s.st == .round2

/-- `FLT` = (`ST` is FAULT) (R29). -/
def State.flt (s : State) : Bool := s.st == .fault

/-- The port `status`: bit 3 FLT, bit 2 DV, bit 1 KV, bit 0 BUSY (R32). -/
def State.status (s : State) : BitVec 4 :=
  BitVec.ofBool s.flt ++ BitVec.ofBool s.dv ++ BitVec.ofBool s.kv ++ BitVec.ofBool s.busy

/-- The output ports (R32). -/
structure OutPorts where
  /-- `cmd_ready`. -/
  cmdReady : Bool
  /-- `dout`, sequence index 0 of the ciphertext on bit 7. -/
  dout : Block
  /-- `status`. -/
  status : BitVec 4
  /-- `fcause`. -/
  fcause : BitVec 2
  deriving DecidableEq, Repr

/-- What the output ports show in a state; looking at them changes nothing (R32). -/
def State.outputs (s : State) : OutPorts :=
  { cmdReady := s.ready, dout := s.dout, status := s.status, fcause := causeCode s.fcause }

end Sys2Proof.Machine
end

