-- ==== Sys2Proof/Machine/Ops.lean ====
section
/-! DEFINITION. The named operations over the state: sampling the input ports, accepting a command,
entering the fault state, reset, and the register updates of each rule (R61, R123, R133, R134, R135,
R154, R180). The fault has no return but reset (R155). -/

namespace Sys2Proof.Machine

/-- The ports of a host that has nothing to ask: `rst` = 0 and the all-zero word, a NOP (R63, R192). -/
def InPorts.idle : InPorts := { rst := false, cmd := 0x000#12 }

/-- The input port values the coming step samples (R30, R31); an idle host past the end of
`inputs` (log entry 2). -/
def State.ports (s : State) : InPorts :=
  match s.inputs with
  | [] => InPorts.idle
  | p :: _ => p

/-- The state once the step has sampled its ports: their values are gone (R38, R61). -/
def State.sampled (s : State) : State := { s with inputs := s.inputs.tail }

/-- The state with the host driving `p` at the coming step, the later steps as they were. -/
def State.present (s : State) (p : InPorts) : State := { s with inputs := p :: s.inputs.tail }

/-- R61: a command has an effect only when accepted, in state IDLE (with `rst` = 0, which the step
has seen to); otherwise it has no effect of any kind. -/
def whenIdle (effect : State → State) (s : State) : State :=
  if s.st = .idle then effect s else s

/-- `raise Fault(cause)` (R154): these three writes and nothing else. -/
def State.raiseFault (s : State) (cause : FaultCause) : State :=
  { s with st := .fault, fcause := some cause, dv := false }

/-- A step with `rst` = 1 (R180): the control state is reset, and the five data registers hold
unspecified values afterwards, neither cleared nor kept. -/
def State.resetStep (s : State) : State :=
  { s with
    st := .idle, kv := false, dv := false, fcause := none,
    k1 := Config.resetK1 s.draws, k2 := Config.resetK2 s.draws,
    l := Config.resetL s.draws, r := Config.resetR s.draws,
    dout := Config.resetDout s.draws, draws := s.draws + 1 }

/-- LOADKEY's writes (R123): both subkeys together, `KV` set, `DV` cleared. -/
def State.loadKey (s : State) (key : Key) : State :=
  { s with k1 := (keySchedule key).1, k2 := (keySchedule key).2, kv := true, dv := false }

/-- The writes of an ENCRYPT accepted with `KV` = 1 (R133). -/
def State.startEncryption (s : State) (p : Block) : State :=
  { s with l := (initialHalves p).1, r := (initialHalves p).2, dv := false, st := .round1 }

/-- ENCRYPT's accept step (R133): NOKEY without a key, else the encryption starts. -/
def State.acceptEncrypt (s : State) (p : Block) : State :=
  if s.kv then s.startEncryption p else s.raiseFault .nokey

end Sys2Proof.Machine
end

