-- ==== Sys2Proof/Machine/Command.lean ====
section
/-! DEFINITION. The meanings of the three commands NOP, LOADKEY and ENCRYPT (R123, R133, R136). -/

namespace Sys2Proof.Machine

/-- NOP: changes no register and no flag, whatever `arg` is (R63, R136). -/
def execNop (_arg : BitVec 10) (s : State) : Host.Outcome State Fault Refusal :=
  .next s

/-- LOADKEY (R123). -/
def execLoadkey (key : Key) (s : State) : Host.Outcome State Fault Refusal :=
  .next (whenIdle (·.loadKey key) s)

/-- ENCRYPT, its accept step (R133); the rounds follow as steps of the sequencer. -/
def execEncrypt (p : Block) (s : State) : Host.Outcome State Fault Refusal :=
  .next (whenIdle (·.acceptEncrypt p) s)

end Sys2Proof.Machine
end

