-- ==== Sys2Proof/Machine/Reserved.lean ====
section
/-! DEFINITION. The meanings of the reserved encodings: each enters the fault state (R66, R67). -/

namespace Sys2Proof.Machine

/-- `op` = 10 with `cmd[9:8]` = 01: Fault(BADLEN) (R67). -/
def execReservedBadlen01 (_x : BitVec 8) (s : State) : Host.Outcome State Fault Refusal :=
  .next (whenIdle (·.raiseFault .badlen) s)

/-- `op` = 10 with `cmd[9:8]` = 10: Fault(BADLEN) (R67). -/
def execReservedBadlen10 (_x : BitVec 8) (s : State) : Host.Outcome State Fault Refusal :=
  .next (whenIdle (·.raiseFault .badlen) s)

/-- `op` = 10 with `cmd[9:8]` = 11: Fault(BADLEN) (R67). -/
def execReservedBadlen11 (_x : BitVec 8) (s : State) : Host.Outcome State Fault Refusal :=
  .next (whenIdle (·.raiseFault .badlen) s)

/-- `op` = 11: Fault(BADOP), whatever the operand (R66). -/
def execReservedBadop (_x : BitVec 10) (s : State) : Host.Outcome State Fault Refusal :=
  .next (whenIdle (·.raiseFault .badop) s)

end Sys2Proof.Machine
end

