-- ==== Sys2Proof/Machine/Dispatch.lean ====
section
/-! DEFINITION. One arm per row of the opcode table (R62, R138). -/

namespace Sys2Proof.Machine

/-- What a command does at the step that accepts it. -/
def exec (i : Instr) (s : State) : Host.Outcome State Fault Refusal :=
  match i with
  | .nop arg => Sys2Proof.Machine.execNop arg s
  | .loadkey key => Sys2Proof.Machine.execLoadkey key s
  | .encrypt plaintext => Sys2Proof.Machine.execEncrypt plaintext s
  | .reservedBadlen01 x => Sys2Proof.Machine.execReservedBadlen01 x s
  | .reservedBadlen10 x => Sys2Proof.Machine.execReservedBadlen10 x s
  | .reservedBadlen11 x => Sys2Proof.Machine.execReservedBadlen11 x s
  | .reservedBadop x => Sys2Proof.Machine.execReservedBadop x s

end Sys2Proof.Machine
end

