-- ==== Sys2Proof/Machine/Sequencer.lean ====
section
/-! DEFINITION. The control FSM: the subkey mux, the two round steps and the choice of what a step
does (R134, R135, R137, R138). -/

namespace Sys2Proof.Machine

/-- The two states in which F's output is used. -/
inductive Round where
  | first
  | second
  deriving DecidableEq, Repr

/-- The subkey mux: K1 in ROUND1, K2 in ROUND2; in IDLE and FAULT no rule reads it (R137). -/
def State.subkeyMux (s : State) : Round → Subkey
  | .first => s.k1
  | .second => s.k2

/-- The ROUND1 step (R134): round 1 with the swap. -/
def State.round1Step (s : State) : State :=
  { s with
    l := (swapRound (s.subkeyMux .first) (s.l, s.r)).1,
    r := (swapRound (s.subkeyMux .first) (s.l, s.r)).2,
    st := .round2 }

/-- The ROUND2 step (R135): round 2 without a swap, the final permutation, the result shown. -/
def State.round2Step (s : State) : State :=
  { s with
    l := (lastRound (s.subkeyMux .second) (s.l, s.r)).1,
    dout := finish (lastRound (s.subkeyMux .second) (s.l, s.r)),
    dv := true,
    st := .idle }

/-- R138: the next state is chosen by `rst`, then `ST`, then in IDLE only the decoded command. `p`
is what the step samples. -/
def clockEdge (p : InPorts) (s : State) : Host.Outcome State Fault Refusal :=
  if p.rst then .next s.resetStep
  else
    match s.st with
    | .fault => .next s
    | .round1 => .next s.round1Step
    | .round2 => .next s.round2Step
    | .idle => exec (decode p.cmd) s

/-- The state with word `w` on `cmd` and `rst` = 0 at the coming step (R61, R183). -/
def presentWord (s : State) (w : Nat) : State :=
  s.present { rst := false, cmd := BitVec.ofNat 12 w }

end Sys2Proof.Machine
end

