-- ==== Sys2Proof/Machine/Step.lean ====
section
/-! DEFINITION. One step, that is one rising edge of `clk` (R30, R138), and the placing of a command
where the step looks for it. -/

namespace Sys2Proof.Machine

/-- One rising edge: sample the ports, then act on them (R30, R138). -/
def step (s : State) : Host.Outcome State Fault Refusal :=
  clockEdge s.ports s.sampled

/-- `s` with the table's word `w` on `cmd` and `rst` = 0 at the coming step; nothing else changes. In
state IDLE (the state after reset) the coming step accepts it (R61; log entry 7). -/
def State.withFetchWord (s : State) (nbits w : Nat) : State :=
  presentWord s (w % 2 ^ nbits)

end Sys2Proof.Machine
end

