-- ==== Sys2Proof/Safety.lean ====
section
/-! DEFINITION. What claims about the engine speak of: which hosts are correct (R157, R186), the
invariants of the registers (R26 to R28, R151), whose answer `DOUT` holds (R27), and what an accepted
command has done once it is complete (R48, R190). -/

namespace Sys2Proof.Safety

open Sys2Proof.Machine

/-- `n` steps, stopping where a step gives no next state. -/
def runFor : Nat → State → Host.Outcome State Fault Refusal
  | 0, s => .next s
  | n + 1, s =>
    match step s with
    | .next t => runFor n t
    | .fault r => .fault r
    | .refused r => .refused r

/-- The coming step accepts a command: `rst` = 0 and `ST` = IDLE (R61). -/
def accepts (s : State) : Bool := !s.ports.rst && s.ready

/-- The command word of the coming step, decoded (R68); it counts only where `accepts` holds. -/
def offered (s : State) : Instr := decode s.ports.cmd

/-- A LOADKEY, with any key. -/
def isLoadkey : Instr → Bool
  | .nop _ => false
  | .loadkey _ => true
  | .encrypt _ => false
  | .reservedBadlen01 _ => false
  | .reservedBadlen10 _ => false
  | .reservedBadlen11 _ => false
  | .reservedBadop _ => false

/-- No reserved encoding, and an ENCRYPT only with a key loaded (R157, R186). -/
def commandObeys (loaded : Bool) : Instr → Bool
  | .nop _ => true
  | .loadkey _ => true
  | .encrypt _ => loaded
  | .reservedBadlen01 _ => false
  | .reservedBadlen10 _ => false
  | .reservedBadlen11 _ => false
  | .reservedBadop _ => false

/-- Whether a LOADKEY has been accepted since the last reset, told from the ports alone. -/
def loadedAfter (loaded : Bool) (s : State) : Bool :=
  if s.ports.rst then false
  else loaded || (accepts s && isLoadkey (offered s))

/-- `P` holds of the states at which the next `n` steps are taken. -/
def Along (P : State → Prop) : Nat → State → Prop
  | 0, _ => True
  | n + 1, s => P s ∧ ∀ t, step s = .next t → Along P n t

/-- During the next `n` steps every accepted command is one that a correct host gives, `loaded`
telling whether a LOADKEY has been accepted since the last reset (R157). -/
def HostCorrect : Nat → Bool → State → Prop
  | 0, _, _ => True
  | n + 1, loaded, s =>
    (accepts s = true → commandObeys loaded (offered s) = true) ∧
      ∀ t, step s = .next t → HostCorrect n (loadedAfter loaded s) t

/-- The invariant of the registers: FAULT is entered exactly with a recorded cause (R25, R28, R151),
`DV` is 1 only in IDLE (R27, R156), `KV` is 1 during the rounds and while `DV` is 1 (R133, R139),
while `KV` is 1 the subkeys are those of a loaded master key (R26), and while `DV` is 1 `DOUT` is the
final permutation of `L ‖ R` (R135, R139). -/
structure Inv (s : State) : Prop where
  faultIffCause : s.st = .fault ↔ s.fcause ≠ none
  validOnlyIdle : s.dv = true → s.st = .idle
  validHasKey : s.dv = true → s.kv = true
  roundsHaveKey : s.busy = true → s.kv = true
  keysFromMaster : s.kv = true → ∃ key, keySchedule key = (s.k1, s.k2)
  validResult : s.dv = true → s.dout = finish (s.l, s.r)

/-- The plaintext of the most recent ENCRYPT accepted since the last LOADKEY, reset or fault, after
the coming step, from what it was before (R27). -/
def lastBlock (g : Option Block) (s : State) : Option Block :=
  if s.ports.rst then none
  else if s.ready then
    match offered s with
    | .nop _ => g
    | .loadkey _ => none
    | .encrypt p => if s.kv then some p else none
    | .reservedBadlen01 _ => none
    | .reservedBadlen10 _ => none
    | .reservedBadlen11 _ => none
    | .reservedBadop _ => none
  else g

/-- `g` is the plaintext whose encryption the engine has completed or is carrying out: in IDLE `DV`
tells whether there is one, and `DOUT` is then its ciphertext (R27); in the rounds the half-blocks
are those of R139 and `DV` is 0; in FAULT there is none. -/
def AnswersFor (g : Option Block) (s : State) : Prop :=
  match s.st with
  | .idle =>
    match g with
    | none => s.dv = false
    | some p => s.dv = true ∧ s.dout = enc s.k1 s.k2 p
  | .round1 => s.dv = false ∧ ∃ p, g = some p ∧ (s.l, s.r) = initialHalves p
  | .round2 => s.dv = false ∧ ∃ p, g = some p ∧ (s.l, s.r) = swapRound s.k1 (initialHalves p)
  | .fault => s.dv = false ∧ g = none

/-- Two states that differ at most in register contents that mean nothing to the host: the subkeys
while `KV` = 0 and the half-blocks outside the rounds (R35, U6), and `DOUT` while `DV` = 0 (R185; from the
first ROUND2 step on R35 and U11 fix that content too, and it is not compared). In the rounds `KV` is 1
(R133). -/
structure SameSpecified (s u : State) : Prop where
  st : s.st = u.st
  kv : s.kv = u.kv
  dv : s.dv = u.dv
  fcause : s.fcause = u.fcause
  inputs : s.inputs = u.inputs
  keys : s.kv = true → s.k1 = u.k1 ∧ s.k2 = u.k2
  halves : s.busy = true → s.kv = true ∧ s.l = u.l ∧ s.r = u.r
  result : s.dv = true → s.dout = u.dout

/-- The registers once an accepted command is complete (R48, R123, R136, R139). A command that faults
is complete when the fault is entered. -/
def completed (i : Instr) (s : State) : State :=
  match i with
  | .nop _ => s
  | .loadkey key => s.loadKey key
  | .encrypt p =>
    if s.kv then
      { s with
        l := (preOutput s.k1 s.k2 p).1, r := (preOutput s.k1 s.k2 p).2,
        dout := enc s.k1 s.k2 p, dv := true }
    else s.raiseFault .nokey
  | .reservedBadlen01 _ => s.raiseFault .badlen
  | .reservedBadlen10 _ => s.raiseFault .badlen
  | .reservedBadlen11 _ => s.raiseFault .badlen
  | .reservedBadop _ => s.raiseFault .badop

/-- How many steps a command takes beyond the accepting one (R190); a faulting command does nothing
more after it. -/
def stepsAfterAccept (kv : Bool) : Instr → Nat
  | .nop _ => Config.nopSteps - 1
  | .loadkey _ => Config.loadkeySteps - 1
  | .encrypt _ => if kv then Config.encryptSteps - 1 else 0
  | .reservedBadlen01 _ => 0
  | .reservedBadlen10 _ => 0
  | .reservedBadlen11 _ => 0
  | .reservedBadop _ => 0

/-- Port values with `rst` = 0. -/
def driving (w : CmdWord) : InPorts := { rst := false, cmd := w }

/-- The port values of a host that gives one command after another, each when the one before it is
complete; the words it has on `cmd` in between are arbitrary (R48, R61, R190). -/
def schedule : List (Instr × List CmdWord) → List InPorts
  | [] => []
  | (i, ws) :: rest => driving (encode i) :: ws.map driving ++ schedule rest

/-- The words in between fill exactly the steps in which the engine is not ready, and only the last
command may be one that faults: after it no command is accepted (R48, R156). -/
def scheduleFits (kv : Bool) : List (Instr × List CmdWord) → Bool
  | [] => true
  | (i, ws) :: rest =>
    ws.length == stepsAfterAccept kv i && (commandObeys kv i || rest.isEmpty) &&
      scheduleFits (kv || isLoadkey i) rest

/-- The commands' effects applied one after another, each to completion (R48). -/
def completedAll : List (Instr × List CmdWord) → State → State
  | [], s => s
  | (i, _) :: rest, s => completedAll rest (completed i s)

end Sys2Proof.Safety
end

