-- ==== Sys2Proof/Certificates/Slice0/Obligations.lean ====
section
/-! DEFINITION. The statements about the engine, in the order of the spec's files: primitives,
S-boxes, round function, key schedule, encryption, the command word, the commands, the sequencer,
faults, reset, ports, and the rules of the whole machine. -/

open Sys2Proof Sys2Proof.Machine Sys2Proof.Safety

/-! Primitives and networks (40_bit_primitives.md). -/

/-- R80: element `i` of `permute(input, table)` is element `table{i}` of the input; the identity table
returns the input; the rule's example. -/
def Obligations.PermuteTakesTheTablesEntries : Prop :=
  (∀ (n : Nat) (s : BitVec n) (table : List (Fin n)) (i : Fin table.length),
      seqBit (permute s table) i = seqBit s (table.get i)) ∧
  (∀ (n : Nat) (s : BitVec n), (permute s (List.finRange n)).toNat = s.toNat) ∧
  (permute 0b10100101#8 [1, 5, 2, 0, 3, 7, 4, 6]).toNat = 0b01110100

/-- R81: `rotl` moves element `i + n` (modulo the length) to index `i`; its vector forms for the
5-bit halves, its corner cases and its examples. -/
def Obligations.RotlMovesElementsCyclically : Prop :=
  (∀ (m : Nat) (s : BitVec m) (n i : Fin m), seqBit (rotl s n) i = seqBit s (i + n)) ∧
  (∀ v : BitVec 5, rotl v 1 = v.extractLsb' 0 4 ++ v.extractLsb' 4 1) ∧
  (∀ v : BitVec 5, rotl v 2 = v.extractLsb' 0 3 ++ v.extractLsb' 3 2) ∧
  (∀ (m : Nat) (s : BitVec (m + 1)), rotl s 0 = s) ∧
  (∀ v : BitVec 5, rotl (rotl v 1) 2 = rotl v 3) ∧
  (∀ (m : Nat) (n : Fin m), rotl (0#m) n = 0#m ∧ rotl (BitVec.allOnes m) n = BitVec.allOnes m) ∧
  rotl 0b10000#5 1 = 0b00001#5 ∧ rotl 0b01100#5 1 = 0b11000#5 ∧
  rotl 0b00001#5 2 = 0b00100#5 ∧ rotl 0b11000#5 2 = 0b00011#5

/-- R82: each output element is 1 exactly when the input elements differ; the corner cases and the
examples. -/
def Obligations.XorIsElementwise : Prop :=
  (∀ (m : Nat) (a b : BitVec m) (i : Fin m),
      (seqBit (seqXor a b) i = true ↔ seqBit a i ≠ seqBit b i)) ∧
  (∀ (m : Nat) (a b c : BitVec m), seqXor a a = 0#m ∧ seqXor a (0#m) = a ∧
      seqXor a b = seqXor b a ∧ seqXor (seqXor a b) c = seqXor a (seqXor b c)) ∧
  seqXor 0b11000011#8 0b10100100#8 = 0b01100111#8 ∧ seqXor 0b0111#4 0b0100#4 = 0b0011#4

/-- R91: left is the first half of the sequence and the high bits, right the second; joining undoes
splitting and splitting undoes joining. -/
def Obligations.SplitAndJoinHalves : Prop :=
  (∀ (h : Nat) (s : BitVec (h + h)) (i : Fin h),
      seqBit (split s).1 i = seqBit s ⟨i.val, by omega⟩ ∧
      seqBit (split s).2 i = seqBit s ⟨h + i.val, by omega⟩) ∧
  (∀ v : BitVec 10, split (h := 5) v = (v.extractLsb' 5 5, v.extractLsb' 0 5)) ∧
  (∀ v : BitVec 8, split (h := 4) v = (v.extractLsb' 4 4, v.extractLsb' 0 4)) ∧
  (∀ (h : Nat) (a b : BitVec h), split (join a b) = (a, b)) ∧
  (∀ (h : Nat) (s : BitVec (h + h)), join (split s).1 (split s).2 = s)

/-- R84, R85: P10 and P8 by sequence index and by bit number, P10 a bijection, the examples. -/
def Obligations.KeyNetworksAreWiredAsPrinted : Prop :=
  (∀ s : BitVec 10,
      (List.finRange 10).map (seqBit (p10 s)) =
        ([2, 4, 1, 6, 3, 9, 0, 8, 7, 5] : List (Fin 10)).map (seqBit s) ∧
      [9, 8, 7, 6, 5, 4, 3, 2, 1, 0].map (p10 s).getLsbD =
        [7, 5, 8, 3, 6, 0, 9, 1, 2, 4].map s.getLsbD) ∧
  Function.Bijective p10 ∧ p10 0b1010000010#10 = 0b1000001100#10 ∧
  (∀ s : BitVec 10,
      (List.finRange 8).map (seqBit (p8 s)) =
        ([5, 2, 6, 3, 7, 4, 9, 8] : List (Fin 10)).map (seqBit s) ∧
      [7, 6, 5, 4, 3, 2, 1, 0].map (p8 s).getLsbD =
        [4, 7, 3, 6, 2, 5, 0, 1].map s.getLsbD) ∧
  p8 0b0000111000#10 = 0b10100100#8

/-- R86, R87, R90: IP and FP by sequence index and by bit number, bijections, inverses of each other
as functions and as tables, the examples. -/
def Obligations.BlockNetworksAreWiredAsPrinted : Prop :=
  (∀ s : BitVec 8,
      (List.finRange 8).map (seqBit (ip s)) =
        ([1, 5, 2, 0, 3, 7, 4, 6] : List (Fin 8)).map (seqBit s) ∧
      [7, 6, 5, 4, 3, 2, 1, 0].map (ip s).getLsbD = [6, 2, 5, 7, 4, 0, 3, 1].map s.getLsbD ∧
      (List.finRange 8).map (seqBit (fp s)) =
        ([3, 0, 2, 4, 6, 1, 7, 5] : List (Fin 8)).map (seqBit s) ∧
      [7, 6, 5, 4, 3, 2, 1, 0].map (fp s).getLsbD = [4, 7, 5, 3, 1, 6, 0, 2].map s.getLsbD) ∧
  (∀ s : BitVec 8, fp (ip s) = s ∧ ip (fp s) = s) ∧
  (∀ i : Fin 8, tableFP.get (tableIP.get i) = i ∧ tableIP.get (tableFP.get i) = i) ∧
  Function.Bijective ip ∧ Function.Bijective fp ∧
  ip 0b10100101#8 = 0b01110100#8 ∧ ip 0b10000000#8 = 0b00010000#8 ∧
  fp 0b10010011#8 = 0b11001010#8 ∧ fp 0b10000000#8 = 0b01000000#8

/-- R88, R89: EP and P4 by sequence index and by bit number; every source position of EP appears
exactly twice, its left half is the input rotated right by one and its right half the input rotated
left by one; P4 a bijection; the examples. -/
def Obligations.RoundNetworksAreWiredAsPrinted : Prop :=
  (∀ s : BitVec 4,
      (List.finRange 8).map (seqBit (ep s)) =
        ([3, 0, 1, 2, 1, 2, 3, 0] : List (Fin 4)).map (seqBit s) ∧
      [7, 6, 5, 4, 3, 2, 1, 0].map (ep s).getLsbD = [0, 3, 2, 1, 2, 1, 0, 3].map s.getLsbD ∧
      split (h := 4) (ep s) = (s.rotateRight 1, s.rotateLeft 1)) ∧
  (∀ i : Fin 4, tableEP.count i = 2) ∧
  ep 0b0100#4 = 0b00101000#8 ∧ ep 0b0011#4 = 0b10010110#8 ∧ ep 0b1000#4 = 0b01000001#8 ∧
  (∀ s : BitVec 4,
      (List.finRange 4).map (seqBit (p4 s)) = ([1, 3, 2, 0] : List (Fin 4)).map (seqBit s) ∧
      [3, 2, 1, 0].map (p4 s).getLsbD = [2, 0, 1, 3].map s.getLsbD) ∧
  Function.Bijective p4 ∧
  p4 0b0001#4 = 0b0100#4 ∧ p4 0b1101#4 = 0b1101#4 ∧ p4 0b1000#4 = 0b0001#4

/-! The S-box array (41_sbox.md, 20_memory.md). -/

/-- R45, R101, R104: the contents of the two ROMs in address order; a lookup reads entry
`4*row + col` with row = 2*b0 + b3 and column = 2*b1 + b2, at address `x[3] ‖ x[0] ‖ x[2] ‖ x[1]`. -/
def Obligations.SboxLookupReadsRowAndColumn : Prop :=
  romS0.toList.map BitVec.toNat = [1, 0, 3, 2, 3, 2, 1, 0, 0, 2, 1, 3, 3, 1, 3, 2] ∧
  romS1.toList.map BitVec.toNat = [0, 1, 2, 3, 2, 0, 1, 3, 3, 0, 1, 0, 2, 1, 0, 3] ∧
  (∀ (t : SboxRom) (row col : BitVec 2),
      t.toList[4 * row.toNat + col.toNat]? = some (romRead t (row ++ col))) ∧
  (∀ (t : SboxRom) (x : BitVec 4),
      t.toList[4 * (2 * (seqBit x 0).toNat + (seqBit x 3).toNat) +
        (2 * (seqBit x 1).toNat + (seqBit x 2).toNat)]? = some (sbox x t) ∧
      sbox x t = romRead t (x.extractLsb' 3 1 ++ x.extractLsb' 0 1 ++ x.extractLsb' 2 1 ++
        x.extractLsb' 1 1)) ∧
  sbox 0b1000#4 romS0 = 0b00#2

/-- R102, R103, R105: S0 and S1 as tables of rows and columns and on all sixteen inputs in order, and
the counts of R105: neither is injective, how often each code is given, and which rows repeat a code. -/
def Obligations.SboxesOnAllInputs : Prop :=
  (∀ x : BitVec 4, s0 x = sbox x romS0 ∧ s1 x = sbox x romS1) ∧
  ([0, 1, 2, 3] : List (BitVec 2)).map (fun row => ([0, 1, 2, 3] : List (BitVec 2)).map
      (fun col => (romRead romS0 (row ++ col)).toNat)) =
    [[0b01, 0b00, 0b11, 0b10], [0b11, 0b10, 0b01, 0b00],
     [0b00, 0b10, 0b01, 0b11], [0b11, 0b01, 0b11, 0b10]] ∧
  ([0, 1, 2, 3] : List (BitVec 2)).map (fun row => ([0, 1, 2, 3] : List (BitVec 2)).map
      (fun col => (romRead romS1 (row ++ col)).toNat)) =
    [[0b00, 0b01, 0b10, 0b11], [0b10, 0b00, 0b01, 0b11],
     [0b11, 0b00, 0b01, 0b00], [0b10, 0b01, 0b00, 0b11]] ∧
  (List.range 16).map (fun x => (s0 (BitVec.ofNat 4 x)).toNat) =
    [1, 3, 0, 2, 3, 1, 2, 0, 0, 3, 2, 1, 1, 3, 3, 2] ∧
  (List.range 16).map (fun x => (s1 (BitVec.ofNat 4 x)).toNat) =
    [0, 2, 1, 0, 2, 1, 3, 3, 3, 2, 0, 1, 1, 0, 0, 3] ∧
  ¬ Function.Injective s0 ∧ ¬ Function.Injective s1 ∧
  ([0, 1, 2, 3] : List SboxCode).map (fun c => romS0.toList.count c) = [3, 4, 4, 5] ∧
  ([0, 1, 2, 3] : List SboxCode).map (fun c => romS1.toList.count c) = [5, 4, 3, 4] ∧
  (∀ row code : BitVec 2, ([0, 1, 2, 3] : List (BitVec 2)).countP
      (fun col => romRead romS0 (row ++ col) == code) =
        if row = 3 ∧ code = 0b11 then 2 else if row = 3 ∧ code = 0b00 then 0 else 1) ∧
  (∀ row code : BitVec 2, ([0, 1, 2, 3] : List (BitVec 2)).countP
      (fun col => romRead romS1 (row ++ col) == code) =
        if row = 2 ∧ code = 0b00 then 2 else if row = 2 ∧ code = 0b10 then 0 else 1)

/-! The round function (42_round_function.md). -/

/-- R110 to R114, step by step and in the single bits: with `right` = r0 r1 r2 r3 and `subkey` = k0 .. k7, S-box 0 gets
(r3^k0)(r0^k1)(r1^k2)(r2^k3), S-box 1 gets (r1^k4)(r2^k5)(r3^k6)(r0^k7), with the rows and columns
of R113, and with their outputs a0 a1 and c0 c1 the result is a1 c1 c0 a0; the rules' example. -/
def Obligations.RoundFunctionBitByBit : Prop :=
  (∀ (r : Half) (k : Subkey),
      roundF r k =
        p4 (s0 ((ep r ^^^ k).extractLsb' 4 4) ++ s1 ((ep r ^^^ k).extractLsb' 0 4)) ∧
      (List.finRange 8).map (seqBit (ep r)) =
        [seqBit r 3, seqBit r 0, seqBit r 1, seqBit r 2,
         seqBit r 1, seqBit r 2, seqBit r 3, seqBit r 0] ∧
      ∀ i : Fin 8, seqBit (ep r ^^^ k) i = (seqBit (ep r) i ^^ seqBit k i)) ∧
  (∀ (r : Half) (k : Subkey) (xl xr : BitVec 4),
      (List.finRange 4).map (seqBit xl) =
        [seqBit r 3 ^^ seqBit k 0, seqBit r 0 ^^ seqBit k 1,
         seqBit r 1 ^^ seqBit k 2, seqBit r 2 ^^ seqBit k 3] →
      (List.finRange 4).map (seqBit xr) =
        [seqBit r 1 ^^ seqBit k 4, seqBit r 2 ^^ seqBit k 5,
         seqBit r 3 ^^ seqBit k 6, seqBit r 0 ^^ seqBit k 7] →
      (List.finRange 4).map (seqBit (roundF r k)) =
        [seqBit (s0 xl) 1, seqBit (s1 xr) 1, seqBit (s1 xr) 0, seqBit (s0 xl) 0] ∧
      s0 xl = romRead romS0
        (BitVec.ofBool (seqBit r 3 ^^ seqBit k 0) ++ BitVec.ofBool (seqBit r 2 ^^ seqBit k 3) ++
          BitVec.ofBool (seqBit r 0 ^^ seqBit k 1) ++ BitVec.ofBool (seqBit r 1 ^^ seqBit k 2)) ∧
      s1 xr = romRead romS1
        (BitVec.ofBool (seqBit r 1 ^^ seqBit k 4) ++ BitVec.ofBool (seqBit r 0 ^^ seqBit k 7) ++
          BitVec.ofBool (seqBit r 2 ^^ seqBit k 5) ++ BitVec.ofBool (seqBit r 3 ^^ seqBit k 6))) ∧
  ep 0b0100#4 = 0b00101000#8 ∧
  seqXor 0b00101000#8 0b10100100#8 = 0b10001100#8 ∧
  s0 0b1000#4 = 0b00#2 ∧ s1 0b1100#4 = 0b01#2 ∧ p4 0b0001#4 = 0b0100#4 ∧
  roundF 0b0100#4 0b10100100#8 = 0b0100#4

/-- R116: F depends on its operands only through `xor(EP(r), k)`, is not injective in `r` for any
subkey, and has the values the rule names. -/
def Obligations.RoundFunctionProperties : Prop :=
  (∀ (r : Half) (k : Subkey), roundF r k = roundF 0#4 (seqXor (ep r) k)) ∧
  (∀ k : Subkey, ¬ Function.Injective (fun r => roundF r k)) ∧
  roundF 0b0000#4 0x00#8 = 0b1000#4 ∧ roundF 0b1111#4 0xFF#8 = 0b1000#4 ∧
  roundF 0b1010#4 0b01010101#8 = 0b1000#4 ∧
  roundF 0b0000#4 0xFF#8 = 0b0111#4 ∧ roundF 0b1111#4 0x00#8 = 0b0111#4

/-! The key schedule (43_key_schedule.md). -/

/-- R120, R121: the six steps, with the second rotation cumulative, are the printed wiring from key
bits to subkey bits, by sequence index (the permuted key and the rotated halves too) and by bit
number; the example. -/
def Obligations.KeyScheduleIsWiring : Prop :=
  (∀ key : Key, keySchedule key =
      (p8 (join (rotl (split (h := 5) (p10 key)).1 1) (rotl (split (h := 5) (p10 key)).2 1)),
       p8 (join (rotl (rotl (split (h := 5) (p10 key)).1 1) 2)
         (rotl (rotl (split (h := 5) (p10 key)).2 1) 2)))) ∧
  (∀ key : Key, (keySchedule key).2 =
      p8 (join (rotl (split (h := 5) (p10 key)).1 3) (rotl (split (h := 5) (p10 key)).2 3))) ∧
  (∀ q : Key,
      (List.finRange 10).map (seqBit (p10 q)) =
        ([2, 4, 1, 6, 3, 9, 0, 8, 7, 5] : List (Fin 10)).map (seqBit q) ∧
      (List.finRange 5).map (seqBit (onceRotated q).1) =
        ([4, 1, 6, 3, 2] : List (Fin 10)).map (seqBit q) ∧
      (List.finRange 5).map (seqBit (onceRotated q).2) =
        ([0, 8, 7, 5, 9] : List (Fin 10)).map (seqBit q) ∧
      (List.finRange 5).map (seqBit (rotl (onceRotated q).1 2)) =
        ([6, 3, 2, 4, 1] : List (Fin 10)).map (seqBit q) ∧
      (List.finRange 5).map (seqBit (rotl (onceRotated q).2 2)) =
        ([7, 5, 9, 0, 8] : List (Fin 10)).map (seqBit q) ∧
      (List.finRange 8).map (seqBit (keySchedule q).1) =
        ([0, 6, 8, 3, 7, 2, 9, 5] : List (Fin 10)).map (seqBit q) ∧
      (List.finRange 8).map (seqBit (keySchedule q).2) =
        ([7, 2, 5, 4, 9, 1, 8, 0] : List (Fin 10)).map (seqBit q) ∧
      [7, 6, 5, 4, 3, 2, 1, 0].map (keySchedule q).1.getLsbD =
        [9, 3, 1, 6, 2, 7, 0, 4].map q.getLsbD ∧
      [7, 6, 5, 4, 3, 2, 1, 0].map (keySchedule q).2.getLsbD =
        [2, 7, 4, 5, 0, 8, 1, 9].map q.getLsbD) ∧
  keySchedule 0b1010000010#10 = (0b10100100#8, 0b01000011#8)

/-- R122: the pair of subkeys determines the key; the two subkeys are equal for exactly the eight keys
the rule lists; complementing the key complements both subkeys; the all-zero and the all-one key;
each subkey takes every value, for exactly four keys. -/
def Obligations.KeyScheduleProperties : Prop :=
  Function.Injective keySchedule ∧
  (∀ key : Key, (keySchedule key).1 = (keySchedule key).2 ↔
      key ∈ ([0b0000000000, 0b0001100000, 0b0110001000, 0b0111101000, 0b1000010111,
        0b1001110111, 0b1110011111, 0b1111111111] : List Key)) ∧
  (∀ key : Key, keySchedule (~~~key) = (~~~(keySchedule key).1, ~~~(keySchedule key).2)) ∧
  keySchedule 0#10 = (0x00#8, 0x00#8) ∧ keySchedule 0b1111111111#10 = (0xFF#8, 0xFF#8) ∧
  (∀ k : Subkey, ∃ keys : List Key, keys.length = 4 ∧ keys.Nodup ∧
      ∀ key, (keySchedule key).1 = k ↔ key ∈ keys) ∧
  (∀ k : Subkey, ∃ keys : List Key, keys.length = 4 ∧ keys.Nodup ∧
      ∀ key, (keySchedule key).2 = k ↔ key ∈ keys)

/-! The encrypt transform (44_encrypt.md, section 1). -/

/-- R130: the six steps as the source gives them, with exactly one swap, between the rounds; the
golden vector with its intermediate values. -/
def Obligations.EncryptIsTheSixSteps : Prop :=
  (∀ (k1 k2 : Subkey) (p : Block) (l0 r0 nr fl : Half),
      ip p = l0 ++ r0 → nr = l0 ^^^ roundF r0 k1 → fl = r0 ^^^ roundF nr k2 →
      enc k1 k2 p = fp (fl ++ nr)) ∧
  ip 0b10100101#8 = 0b01110100#8 ∧ roundF 0b0100#4 0b10100100#8 = 0b0100#4 ∧
  0b0111#4 ^^^ 0b0100#4 = 0b0011#4 ∧ roundF 0b0011#4 0b01000011#8 = 0b1101#4 ∧
  0b0100#4 ^^^ 0b1101#4 = 0b1001#4 ∧ fp 0b10010011#8 = 0b11001010#8 ∧
  enc 0b10100100#8 0b01000011#8 0b10100101#8 = 0b11001010#8

/-- R132: for fixed subkeys encryption is a bijection on the blocks, and the same network with the
subkeys exchanged undoes it. -/
def Obligations.ExchangedSubkeysUndoEncryption : Prop :=
  (∀ (k1 k2 : Subkey) (p : Block), enc k2 k1 (enc k1 k2 p) = p) ∧
  (∀ k1 k2 : Subkey, Function.Bijective (enc k1 k2))

/-! The command word (30_encoding.md). -/

/-- Decoding the word of a command gives the command back with every operand bit, and every word is
the word of the command it decodes to. For the words of NOP and of the reserved rows the second is so
because `Instr` keeps the bits that these rows ignore, which is the model's choice (log entry 8, DESIGN
CHOICE). -/
def Obligations.DecodeAndEncodeAgree : Prop :=
  (∀ i : Instr, decode (encode i) = i) ∧ (∀ w : CmdWord, encode (decode w) = w)

/-- R62: a word selects a row, that is `(w & mask) == match`, exactly when it decodes to that row's
command with the operand in its `arg` bits, and the model's masks and matches are those; so many words
lie in each row. -/
def Obligations.RowsPartitionTheWords : Prop :=
  (∀ w : CmdWord,
      (w &&& 0xC00#12 = 0x000#12 ↔ decode w = .nop (w.setWidth 10)) ∧
      (w &&& 0xC00#12 = 0x400#12 ↔ decode w = .loadkey (w.setWidth 10)) ∧
      (w &&& 0xF00#12 = 0x800#12 ↔ decode w = .encrypt (w.setWidth 8)) ∧
      (w &&& 0xF00#12 = 0x900#12 ↔ decode w = .reservedBadlen01 (w.setWidth 8)) ∧
      (w &&& 0xF00#12 = 0xA00#12 ↔ decode w = .reservedBadlen10 (w.setWidth 8)) ∧
      (w &&& 0xF00#12 = 0xB00#12 ↔ decode w = .reservedBadlen11 (w.setWidth 8)) ∧
      (w &&& 0xC00#12 = 0xC00#12 ↔ decode w = .reservedBadop (w.setWidth 10))) ∧
  (∀ (w : CmdWord) (i : Instr),
      w &&& rowMask i = rowMatch i ↔
        (rowMatch i = rowMatch (decode w) ∧ rowMask i = rowMask (decode w))) ∧
  ([(0x000, 0xC00), (0x400, 0xC00), (0x800, 0xF00), (0x900, 0xF00), (0xA00, 0xF00),
    (0xB00, 0xF00), (0xC00, 0xC00)] : List (CmdWord × CmdWord)).map
    (fun row => (List.range 4096).countP (fun w => BitVec.ofNat 12 w &&& row.2 == row.1)) =
      [1024, 1024, 256, 256, 256, 256, 1024]

/-- R68: decode by the fields of the word and by nothing else. -/
def Obligations.DecodeFollowsTheFields : Prop :=
  ∀ w : CmdWord,
    (w.extractLsb' 10 2 = 0b00 → decode w = .nop (w.setWidth 10)) ∧
    (w.extractLsb' 10 2 = 0b01 → decode w = .loadkey (w.setWidth 10)) ∧
    (w.extractLsb' 10 2 = 0b10 → w.extractLsb' 8 2 = 0b00 →
      decode w = .encrypt (w.setWidth 8)) ∧
    (w.extractLsb' 10 2 = 0b10 → w.extractLsb' 8 2 = 0b01 →
      decode w = .reservedBadlen01 (w.setWidth 8)) ∧
    (w.extractLsb' 10 2 = 0b10 → w.extractLsb' 8 2 = 0b10 →
      decode w = .reservedBadlen10 (w.setWidth 8)) ∧
    (w.extractLsb' 10 2 = 0b10 → w.extractLsb' 8 2 = 0b11 →
      decode w = .reservedBadlen11 (w.setWidth 8)) ∧
    (w.extractLsb' 10 2 = 0b11 → decode w = .reservedBadop (w.setWidth 10))

/-- R64, R65: key element `i` is `cmd[9-i]`, plaintext element `i` is `cmd[7-i]` with `cmd[9:8]` = 00;
the example words. -/
def Obligations.OperandsLieOnTheirCommandBits : Prop :=
  (∀ (w : CmdWord) (key : Key), decode w = .loadkey key →
      ∀ i : Fin 10, seqBit key i = w.getLsbD (9 - i.val)) ∧
  (∀ (w : CmdWord) (p : Block), decode w = .encrypt p →
      w.extractLsb' 8 2 = 0b00 ∧ ∀ i : Fin 8, seqBit p i = w.getLsbD (7 - i.val)) ∧
  decode 0x682#12 = .loadkey 0b1010000010#10 ∧ encode (.loadkey 0b1010000010#10) = 0x682#12 ∧
  decode 0x8A5#12 = .encrypt 0b10100101#8 ∧ encode (.encrypt 0b10100101#8) = 0x8A5#12

/-- A few words of 95_test_vectors.md section 2, one per row of the table at least. -/
def Obligations.ListedWordsDecodeAsListed : Prop :=
  decode 0b000000000000#12 = .nop 0b0000000000#10 ∧
  decode 0b001111111111#12 = .nop 0b1111111111#10 ∧
  decode 0b010111111101#12 = .loadkey 0b0111111101#10 ∧
  decode 0b100011111111#12 = .encrypt 0b11111111#8 ∧
  decode 0b100110100101#12 = .reservedBadlen01 0b10100101#8 ∧
  decode 0b101010100101#12 = .reservedBadlen10 0b10100101#8 ∧
  decode 0b101111111111#12 = .reservedBadlen11 0b11111111#8 ∧
  decode 0b111010000010#12 = .reservedBadop 0b1010000010#10

/-! The commands (30_encoding.md, 43_key_schedule.md, 44_encrypt.md). -/

/-- R63, R136: every word with `op` = 00 is a NOP, and a NOP changes no register and no flag. -/
def Obligations.NopChangesNothing : Prop :=
  (∀ w : CmdWord, w &&& 0xC00#12 = 0x000#12 → decode w = .nop (w.setWidth 10)) ∧
  (∀ (arg : BitVec 10) (s : State), exec (.nop arg) s = .next s)

/-- R123: LOADKEY accepted in IDLE writes both subkeys of its key, sets `KV`, clears `DV` and changes
nothing else, for every key; outside IDLE it does nothing; its encoding and the rule's example. -/
def Obligations.LoadkeyStoresTheSubkeys : Prop :=
  (∀ w : CmdWord, w &&& 0xC00#12 = 0x400#12 → decode w = .loadkey (w.setWidth 10)) ∧
  (∀ (key : Key) (s : State), s.st = .idle →
      exec (.loadkey key) s =
        .next { s with k1 := (keySchedule key).1, k2 := (keySchedule key).2, kv := true, dv := false }) ∧
  (∀ (key : Key) (s : State), s.st ≠ .idle → exec (.loadkey key) s = .next s) ∧
  keySchedule (BitVec.setWidth 10 0x682#12) = (0xA4#8, 0x43#8)

/-- R133: ENCRYPT accepted in IDLE with `KV` = 1 loads the halves of IP(p), clears `DV` and enters
ROUND1, for every block; with `KV` = 0 it raises Fault(NOKEY); outside IDLE it does nothing; the
command takes two more steps, whatever the host has on `cmd`, and then `dout` shows the result with
`DV` = 1; its encoding and the rule's example. -/
def Obligations.EncryptStartsOrFaultsNokey : Prop :=
  (∀ w : CmdWord, w &&& 0xF00#12 = 0x800#12 → decode w = .encrypt (w.setWidth 8)) ∧
  (∀ (p : Block) (s : State), s.st = .idle → s.kv = true →
      exec (.encrypt p) s =
        .next { s with
          l := (ip p).extractLsb' 4 4, r := (ip p).extractLsb' 0 4, dv := false, st := .round1 }) ∧
  (∀ (p : Block) (s : State), s.st = .idle → s.kv = false →
      exec (.encrypt p) s =
        .next { s with st := .fault, fcause := some .nokey, dv := false }) ∧
  (∀ (p : Block) (s : State), s.st ≠ .idle → exec (.encrypt p) s = .next s) ∧
  (∀ (p : Block) (s : State) (w1 w2 : CmdWord) (rest : List InPorts),
      s.st = .idle → s.kv = true →
      s.inputs = driving (encode (.encrypt p)) :: driving w1 :: driving w2 :: rest →
      ∃ t, runFor 3 s = .next t ∧ t.dv = true ∧ t.outputs.dout = enc s.k1 s.k2 p) ∧
  (ip (BitVec.setWidth 8 0x8A5#12)).extractLsb' 4 4 = 0b0111#4 ∧
  (ip (BitVec.setWidth 8 0x8A5#12)).extractLsb' 0 4 = 0b0100#4

/-- R66, R67: the words of `op` = 11, and those of `op` = 10 with `cmd[9:8]` not 00, are the reserved
ones; each reserved encoding accepted in IDLE enters the fault state with its cause, whatever
its operand bits and whatever `KV` is, and changes nothing else. That its execution outside IDLE does
nothing is the model's reading (log entry 6, DEDUCED from R61): R66 and R67 speak of accepted commands
only. -/
def Obligations.ReservedEncodingsFault : Prop :=
  (∀ w : CmdWord,
    (w.extractLsb' 10 2 = 0b11#2 → ∃ x, decode w = .reservedBadop x) ∧
    (w.extractLsb' 10 2 = 0b10#2 → w.extractLsb' 8 2 ≠ 0b00#2 →
      ∃ x, decode w = .reservedBadlen01 x ∨ decode w = .reservedBadlen10 x ∨
        decode w = .reservedBadlen11 x)) ∧
  ∀ s : State,
    (s.st = .idle →
      (∀ x : BitVec 8,
        exec (.reservedBadlen01 x) s =
          .next { s with st := .fault, fcause := some .badlen, dv := false } ∧
        exec (.reservedBadlen10 x) s =
          .next { s with st := .fault, fcause := some .badlen, dv := false } ∧
        exec (.reservedBadlen11 x) s =
          .next { s with st := .fault, fcause := some .badlen, dv := false }) ∧
      (∀ x : BitVec 10, exec (.reservedBadop x) s =
          .next { s with st := .fault, fcause := some .badop, dv := false })) ∧
    (s.st ≠ .idle →
      (∀ x : BitVec 8, exec (.reservedBadlen01 x) s = .next s ∧
        exec (.reservedBadlen10 x) s = .next s ∧ exec (.reservedBadlen11 x) s = .next s) ∧
      (∀ x : BitVec 10, exec (.reservedBadop x) s = .next s))

/-- R66, R67, at the step that accepts the word: with `rst` = 0 in IDLE a word with `op` = 11 enters the
fault state with cause BADOP, a word with `op` = 10 and `cmd[9:8]` not 00 with cause BADLEN, whatever its
other bits and `KV` are; only the registers of the fault entry change. -/
def Obligations.AcceptedReservedWordsFault : Prop :=
  ∀ s : State, s.ports.rst = false → s.st = .idle →
    (s.ports.cmd.extractLsb' 10 2 = 0b11#2 →
      step s = .next { s with
        st := .fault, fcause := some .badop, dv := false, inputs := s.inputs.tail }) ∧
    (s.ports.cmd.extractLsb' 10 2 = 0b10#2 → s.ports.cmd.extractLsb' 8 2 ≠ 0b00#2 →
      step s = .next { s with
        st := .fault, fcause := some .badlen, dv := false, inputs := s.inputs.tail })

/-- What each command leaves unchanged, in every state and on every operand: the subkeys and `KV` but
for a LOADKEY, the half-blocks but for an ENCRYPT, `DOUT` always, `ST` and `DV` for a NOP, `ST` and
`FCAUSE` for a LOADKEY, `FCAUSE` for an ENCRYPT with a key; and of the model's own fields the coming
inputs and the count of draws always. -/
def Obligations.CommandsKeepWhatTheyDoNotWrite : Prop :=
  ∀ (i : Instr) (s t : State), exec i s = .next t →
    t.dout = s.dout ∧ t.inputs = s.inputs ∧ t.draws = s.draws ∧
    ((∀ key, i ≠ .loadkey key) → t.k1 = s.k1 ∧ t.k2 = s.k2 ∧ t.kv = s.kv) ∧
    ((∀ p, i ≠ .encrypt p) → t.l = s.l ∧ t.r = s.r) ∧
    (∀ arg, i = .nop arg → t = s) ∧
    (∀ key, i = .loadkey key → t.st = s.st ∧ t.fcause = s.fcause) ∧
    (∀ p, i = .encrypt p → s.kv = true → t.fcause = s.fcause) ∧
    (∀ p, i = .encrypt p → s.kv = false → t.l = s.l ∧ t.r = s.r)

/-! The sequencer (44_encrypt.md, section 2). -/

/-- R61: at a step with `rst` = 0 in IDLE the step is the execution of the decoded word, once the
sampled port values are gone; at every other step the word has no effect of any kind. -/
def Obligations.StepRunsTheAcceptedCommand : Prop :=
  (∀ s : State, s.ports.rst = false → s.st = .idle →
      step s = exec (decode s.ports.cmd) { s with inputs := s.inputs.tail }) ∧
  (∀ (s : State) (rst : Bool) (w w' : CmdWord) (rest : List InPorts),
      (rst = true ∨ s.st ≠ .idle) →
      step { s with inputs := { rst := rst, cmd := w } :: rest } =
        step { s with inputs := { rst := rst, cmd := w' } :: rest })

/-- R134: the ROUND1 step, and its example. -/
def Obligations.Round1StepAsStated : Prop :=
  (∀ s : State, s.ports.rst = false → s.st = .round1 →
      step s = .next { s with
        l := s.r, r := s.l ^^^ roundF s.r s.k1, st := .round2, inputs := s.inputs.tail }) ∧
  roundF 0b0100#4 0b10100100#8 = 0b0100#4 ∧ 0b0111#4 ^^^ 0b0100#4 = 0b0011#4

/-- R135: the ROUND2 step, and its example. -/
def Obligations.Round2StepAsStated : Prop :=
  (∀ s : State, s.ports.rst = false → s.st = .round2 →
      step s = .next { s with
        l := s.l ^^^ roundF s.r s.k2, dout := fp ((s.l ^^^ roundF s.r s.k2) ++ s.r),
        dv := true, st := .idle, inputs := s.inputs.tail }) ∧
  roundF 0b0011#4 0b01000011#8 = 0b1101#4 ∧ 0b0100#4 ^^^ 0b1101#4 = 0b1001#4 ∧
  fp (0b1001#4 ++ 0b0011#4) = 0xCA#8

/-- R138 with the rules its rows name: the whole step function, reset first, then on `ST`, then on
the bits of the command word. -/
def Obligations.StepIsTheTableOfTheSequencer : Prop :=
  (∀ s : State, s.ports.rst = true →
    ∃ t, step s = .next t ∧
      t.st = .idle ∧ t.kv = false ∧ t.dv = false ∧ t.fcause = none ∧ t.inputs = s.inputs.tail) ∧
  (∀ s : State, s.ports.rst = false →
    step s = .next (
      let w := s.ports.cmd
      let s := { s with inputs := s.inputs.tail }
      match s.st with
      | .fault => s
      | .round1 => { s with l := s.r, r := s.l ^^^ roundF s.r s.k1, st := .round2 }
      | .round2 =>
        { s with
          l := s.l ^^^ roundF s.r s.k2, dout := fp ((s.l ^^^ roundF s.r s.k2) ++ s.r),
          dv := true, st := .idle }
      | .idle =>
        if w.extractLsb' 10 2 = 0b00 then s
        else if w.extractLsb' 10 2 = 0b01 then
          { s with
            k1 := (keySchedule (w.setWidth 10)).1, k2 := (keySchedule (w.setWidth 10)).2,
            kv := true, dv := false }
        else if w.extractLsb' 10 2 = 0b11 then
          { s with st := .fault, fcause := some .badop, dv := false }
        else if w.extractLsb' 8 2 ≠ 0b00 then
          { s with st := .fault, fcause := some .badlen, dv := false }
        else if s.kv then
          { s with
            l := (ip (w.setWidth 8)).extractLsb' 4 4, r := (ip (w.setWidth 8)).extractLsb' 0 4,
            dv := false, st := .round1 }
        else { s with st := .fault, fcause := some .nokey, dv := false }))

/-- The transitions of `ST`, all of them (R138), reset among them. -/
def Obligations.SequencerTransitions : Prop :=
  ∀ s : State, ∃ t, step s = .next t ∧
    t.st =
      if s.ports.rst then .idle
      else match s.st with
        | .idle =>
          if s.ports.cmd.extractLsb' 10 2 = 0b00 ∨ s.ports.cmd.extractLsb' 10 2 = 0b01 then .idle
          else if s.ports.cmd.extractLsb' 8 4 = 0b1000 ∧ s.kv = true then .round1
          else .fault
        | .round1 => .round2
        | .round2 => .idle
        | .fault => .fault

/-- R140: in ROUND1, ROUND2 and FAULT the step is the same whatever is on `cmd`, and in the rounds it is
determined by `L`, `R`, `K1`, `K2`: states that agree on those and on `ST` agree after the step on `L`,
`R`, `ST` and, after ROUND2, on the result. -/
def Obligations.BusyStepsIgnoreTheCommand : Prop :=
  (∀ (s : State) (w w' : CmdWord) (rest : List InPorts), s.st ≠ .idle →
      step { s with inputs := { rst := false, cmd := w } :: rest } =
        step { s with inputs := { rst := false, cmd := w' } :: rest }) ∧
  (∀ s u s' u' : State, s.busy = true → s.st = u.st →
      s.l = u.l → s.r = u.r → s.k1 = u.k1 → s.k2 = u.k2 →
      s.ports.rst = false → u.ports.rst = false → step s = .next s' → step u = .next u' →
      s'.l = u'.l ∧ s'.r = u'.r ∧ s'.st = u'.st ∧
        (s.st = .round2 → s'.dout = u'.dout ∧ s'.dv = true ∧ u'.dv = true))

/-- R139: an ENCRYPT accepted with `KV` = 1 and not cut by reset has, after its third step, the
ciphertext in `DOUT` with `DV` = 1, the pre-output in `L ‖ R` and everything else as before; after the
first two steps `DV` = 0 and `cmd_ready` = 0; with subkeys from `KS(key)` that is the cipher of the
key; the golden vector. -/
def Obligations.EncryptionEndToEnd : Prop :=
  (∀ (s : State) (p : Block) (w1 w2 : CmdWord) (rest : List InPorts),
      s.st = .idle → s.kv = true →
      s.inputs = driving (encode (.encrypt p)) :: driving w1 :: driving w2 :: rest →
      ∃ t1 t2 : State,
        step s = .next t1 ∧ t1.dv = false ∧ t1.outputs.cmdReady = false ∧
        step t1 = .next t2 ∧ t2.dv = false ∧ t2.outputs.cmdReady = false ∧
        step t2 = .next { s with
          l := (preOutput s.k1 s.k2 p).1, r := (preOutput s.k1 s.k2 p).2,
          dout := enc s.k1 s.k2 p, dv := true, inputs := rest }) ∧
  (∀ (s : State) (key : Key) (p : Block), (s.k1, s.k2) = keySchedule key →
      enc s.k1 s.k2 p = enc (keySchedule key).1 (keySchedule key).2 p) ∧
  enc (keySchedule 0b1010000010#10).1 (keySchedule 0b1010000010#10).2 0b10100101#8 = 0xCA#8

/-- From any state in IDLE, with or without a key: LOADKEY and at the next step ENCRYPT give the
ciphertext of the block under the key after four steps (R189, R183). -/
def Obligations.LoadThenEncryptGivesTheCiphertext : Prop :=
  ∀ (s : State) (key : Key) (p : Block) (w1 w2 : CmdWord) (rest : List InPorts),
    s.st = .idle →
    s.inputs = driving (encode (.loadkey key)) :: driving (encode (.encrypt p)) ::
      driving w1 :: driving w2 :: rest →
    ∃ t, runFor 4 s = .next t ∧
      t.outputs.dout = enc (keySchedule key).1 (keySchedule key).2 p ∧
      t.outputs.status = 0b0110 ∧ t.outputs.cmdReady = true ∧ t.inputs = rest

/-! Ordering and step counts (20_memory.md, 70_reset_and_hazards.md). -/

/-- R48: after any sequence of accepted commands, each given when the one before it is complete and
with any words on `cmd` in between, the state is the one got by applying the commands' effects one
after another, each to completion. -/
def Obligations.CommandsApplyOneAfterAnother : Prop :=
  ∀ (cmds : List (Instr × List CmdWord)) (s : State) (rest : List InPorts),
    s.st = .idle → scheduleFits s.kv cmds = true → s.inputs = schedule cmds ++ rest →
    runFor (schedule cmds).length s =
      .next { completedAll cmds s with inputs := rest }

/-- R190: with `rst` = 0 a NOP or LOADKEY is ready again after one step, a LOADKEY with `KV` = 1; an
ENCRYPT with `KV` = 1 after exactly three, with its result on `dout` and `DV` = 1; a faulting command
never, with FLT = 1 and a cause shown; and a reset step after one. The runs are no longer than the
list of what the host drives, so that nothing rests on the idle host past its end. -/
def Obligations.StepCountsToReady : Prop :=
  (∀ s : State, s.ports.rst = true → ∃ t, step s = .next t ∧ t.outputs.cmdReady = true) ∧
  (∀ s : State, accepts s = true → commandObeys false (offered s) = true →
      ∃ t, step s = .next t ∧ t.outputs.cmdReady = true ∧
        (isLoadkey (offered s) = true → t.kv = true)) ∧
  (∀ (s : State) (p : Block) (n : Nat), accepts s = true → offered s = .encrypt p → s.kv = true →
      n ≤ s.inputs.length → (∀ q ∈ s.inputs.take n, q.rst = false) → 1 ≤ n → n ≤ 3 →
      ∃ t, runFor n s = .next t ∧ (t.outputs.cmdReady = true ↔ n = 3) ∧
        (n = 3 → t.dv = true ∧ t.outputs.dout = enc s.k1 s.k2 p)) ∧
  (∀ (s : State) (n : Nat), accepts s = true → commandObeys s.kv (offered s) = false →
      n ≤ s.inputs.length → (∀ q ∈ s.inputs.take n, q.rst = false) → 1 ≤ n →
      ∃ t, runFor n s = .next t ∧ t.outputs.cmdReady = false ∧ t.flt = true ∧
        t.outputs.fcause ≠ 0b00#2)

/-! Faults (60_exceptions.md). -/

/-- R151: the codes of `FCAUSE`, and the only three ways into state FAULT, each with its cause. -/
def Obligations.FaultsHaveThreeCauses : Prop :=
  causeCode none = 0b00#2 ∧ causeCode (some .badop) = 0b01#2 ∧
  causeCode (some .badlen) = 0b10#2 ∧ causeCode (some .nokey) = 0b11#2 ∧
  (∀ s t : State, step s = .next t → s.st ≠ .fault → t.st = .fault →
      s.st = .idle ∧ s.ports.rst = false ∧
      ((s.ports.cmd.extractLsb' 10 2 = 0b11 ∧ t.fcause = some .badop) ∨
       (s.ports.cmd.extractLsb' 10 2 = 0b10 ∧ s.ports.cmd.extractLsb' 8 2 ≠ 0b00 ∧
          t.fcause = some .badlen) ∨
       (s.ports.cmd.extractLsb' 10 2 = 0b10 ∧ s.ports.cmd.extractLsb' 8 2 = 0b00 ∧
          s.kv = false ∧ t.fcause = some .nokey)))

/-- R154: the step that accepts a faulting command is a fault entry and nothing else; fault entry
writes `ST`, `FCAUSE` and `DV` and no other register, and what the ports show then. -/
def Obligations.FaultEntryWritesThreeRegisters : Prop :=
  (∀ s : State, accepts s = true → commandObeys s.kv (offered s) = false →
    ∃ c, step s = .next (({ s with inputs := s.inputs.tail } : State).raiseFault c)) ∧
  ∀ (s : State) (c : FaultCause),
    s.raiseFault c = { s with st := .fault, fcause := some c, dv := false } ∧
    (s.raiseFault c).outputs =
      { cmdReady := false, dout := s.dout,
        status := 0b1000#4 ||| ((BitVec.ofBool s.kv).setWidth 4 <<< 1),
        fcause := causeCode (some c) }

/-- R153: reset raises no fault and clears a recorded one; outside IDLE no fault arises; in IDLE a
reserved encoding reports BADOP or BADLEN whatever `KV` is, and a step reports NOKEY exactly when the
word is a well-formed ENCRYPT and `KV` = 0; and in a state that meets the invariant a recorded cause stays until reset. -/
def Obligations.FaultPriority : Prop :=
  (∀ s t : State, step s = .next t → s.ports.rst = true → t.st = .idle ∧ t.fcause = none) ∧
  (∀ s t : State, step s = .next t → s.ports.rst = false → s.st ≠ .idle →
      t.fcause = s.fcause ∧ (t.st = .fault ↔ s.st = .fault)) ∧
  (∀ s t : State, step s = .next t → s.ports.rst = false → s.st = .idle →
      (s.ports.cmd.extractLsb' 10 2 = 0b11 → t.st = .fault ∧ t.fcause = some .badop) ∧
      (s.ports.cmd.extractLsb' 10 2 = 0b10 → s.ports.cmd.extractLsb' 8 2 ≠ 0b00 →
        t.st = .fault ∧ t.fcause = some .badlen) ∧
      (s.ports.cmd.extractLsb' 10 2 = 0b10 → s.ports.cmd.extractLsb' 8 2 = 0b00 → s.kv = false →
        t.st = .fault ∧ t.fcause = some .nokey) ∧
      (t.st = .fault → t.fcause = some .nokey →
        s.ports.cmd.extractLsb' 10 2 = 0b10 ∧ s.ports.cmd.extractLsb' 8 2 = 0b00 ∧ s.kv = false)) ∧
  (∀ s t : State, Inv s → step s = .next t → s.ports.rst = false → s.fcause ≠ none →
      t.fcause = s.fcause)

/-- R156: state FAULT is absorbing: at a step with `rst` = 0 nothing changes, and so for any number of
steps with `rst` = 0, as many as the list says what the host drives. -/
def Obligations.FaultHoldsUntilReset : Prop :=
  (∀ s : State, s.st = .fault → s.ports.rst = false →
      step s = .next { s with inputs := s.inputs.tail }) ∧
  (∀ (n : Nat) (s : State), s.st = .fault → n ≤ s.inputs.length →
      (∀ q ∈ s.inputs.take n, q.rst = false) →
      runFor n s = .next { s with inputs := s.inputs.drop n })

/-- R155: only a step with `rst` = 1 leaves FAULT, and it discards the loaded key as well; in FAULT no
second fault is recorded: `FCAUSE` is never overwritten. -/
def Obligations.OnlyResetLeavesFault : Prop :=
  (∀ s t : State, step s = .next t → s.st = .fault → t.st ≠ .fault →
    s.ports.rst = true ∧ t.kv = false ∧ t.fcause = none) ∧
  (∀ s t : State, step s = .next t → s.st = .fault → s.ports.rst = false →
    t.st = .fault ∧ t.fcause = s.fcause)

/-- R157: under a host that gives only NOP, LOADKEY, and ENCRYPT after a LOADKEY since the last reset,
the engine never faults, over any number of steps. -/
def Obligations.CorrectHostNeverFaults : Prop :=
  ∀ (n : Nat) (s : State) (loaded : Bool),
    s.st ≠ .fault → (loaded = true → s.kv = true) → HostCorrect n loaded s →
    ∃ t, runFor n s = .next t ∧ t.st ≠ .fault

/-! Reset (10_state.md section 6, 70_reset_and_hazards.md). -/

/-- R35: the values the spec states for the state after reset (the zeros of `K1`, `K2`, `L`, `R`,
`DOUT` there are the model's choice and are not stated), and what the ports show. -/
def Obligations.ResetStateAsStated : Prop :=
  State.reset.st = .idle ∧ State.reset.kv = false ∧ State.reset.dv = false ∧
  State.reset.fcause = none ∧ State.reset.outputs.cmdReady = true ∧
  State.reset.outputs.status = 0b0000#4 ∧ State.reset.outputs.fcause = 0b00#2

/-- R180: a step with `rst` = 1, from every state and whatever `cmd` is, leaves the control state and
the ports as stated; the sampled values are gone and nothing else of the host's is touched. -/
def Obligations.ResetStepFromEveryState : Prop :=
  ∀ s : State, s.ports.rst = true →
    ∃ t, step s = .next t ∧
      t.st = .idle ∧ t.kv = false ∧ t.dv = false ∧ t.fcause = none ∧
      t.outputs.cmdReady = true ∧ t.outputs.status = 0b0000#4 ∧ t.outputs.fcause = 0b00#2 ∧
      t.inputs = s.inputs.tail

/-! Ports and flags (10_state.md, sections 2 to 4). -/

/-- R25, R28, R29, R32: the codes of `ST`, the three status signals of which exactly one is 1, and
which bit of which port shows what. -/
def Obligations.PortsShowTheState : Prop :=
  SeqState.idle.code = 0b00#2 ∧ SeqState.round1.code = 0b01#2 ∧
  SeqState.round2.code = 0b10#2 ∧ SeqState.fault.code = 0b11#2 ∧
  (∀ s : State,
      (s.ready = true ↔ s.st = .idle) ∧
      (s.busy = true ↔ s.st = .round1 ∨ s.st = .round2) ∧
      (s.flt = true ↔ s.st = .fault) ∧
      [s.ready, s.busy, s.flt].count true = 1 ∧
      s.outputs.cmdReady = s.ready ∧ s.outputs.dout = s.dout ∧
      s.outputs.status.getLsbD 3 = s.flt ∧ s.outputs.status.getLsbD 2 = s.dv ∧
      s.outputs.status.getLsbD 1 = s.kv ∧ s.outputs.status.getLsbD 0 = s.busy ∧
      s.outputs.fcause = causeCode s.fcause)

/-! Rules of the whole machine. -/

/-- Who writes what (the table of R24), at a step with `rst` = 0, in every state: the subkeys and `KV`
change only by an accepted LOADKEY, `L` only by an ENCRYPT accepted with a key, ROUND1 or ROUND2, `R` by
the same but ROUND2, `DOUT` only by ROUND2, `FCAUSE` only by a fault entry, `ST` only by an
ENCRYPT accepted with a key, a fault entry, ROUND1 or ROUND2; `DV` rises only by ROUND2 and falls only
by an accepted LOADKEY, an ENCRYPT accepted with a key or a fault entry. -/
def Obligations.WritersOfEachRegister : Prop :=
  ∀ s t : State, step s = .next t → s.ports.rst = false →
    ((t.k1 ≠ s.k1 ∨ t.k2 ≠ s.k2 ∨ t.kv ≠ s.kv) →
      s.st = .idle ∧ isLoadkey (offered s) = true ∧ t.kv = true) ∧
    (t.l ≠ s.l →
      s.st = .round1 ∨ s.st = .round2 ∨
        (s.st = .idle ∧ s.kv = true ∧ ∃ p, offered s = .encrypt p)) ∧
    (t.r ≠ s.r →
      s.st = .round1 ∨ (s.st = .idle ∧ s.kv = true ∧ ∃ p, offered s = .encrypt p)) ∧
    (t.dout ≠ s.dout → s.st = .round2) ∧
    (t.fcause ≠ s.fcause → s.st = .idle ∧ t.st = .fault) ∧
    (t.st ≠ s.st →
      s.st = .round1 ∨ s.st = .round2 ∨
        (s.st = .idle ∧ s.kv = true ∧ ∃ p, offered s = .encrypt p) ∨
        (s.st = .idle ∧ commandObeys s.kv (offered s) = false ∧ t.st = .fault)) ∧
    (t.dv = true → s.dv = true ∨ s.st = .round2) ∧
    (s.dv = true → t.dv = false →
      s.st = .idle ∧
        (isLoadkey (offered s) = true ∨ (s.kv = true ∧ ∃ p, offered s = .encrypt p) ∨
          (commandObeys s.kv (offered s) = false ∧ t.st = .fault)))

/-- R125: as long as no LOADKEY is accepted and no reset happens, `K1` and `K2` keep their values, over
any number of steps. -/
def Obligations.SubkeysStayBetweenLoadkeys : Prop :=
  ∀ (n : Nat) (s t : State),
    Along (fun u => u.ports.rst = false ∧ ¬ (accepts u = true ∧ isLoadkey (offered u) = true)) n s →
    runFor n s = .next t → t.k1 = s.k1 ∧ t.k2 = s.k2

/-- Every command and every step of the model answers a next state, in every state. This is the model's
reading: the fault at which R154 says that the engine stops is the state FAULT, in which R156's steps
change nothing (log entry 5, DEDUCED), and a command executed outside IDLE changes nothing (log entry 6,
DEDUCED). -/
def Obligations.EveryStepAnswersANextState : Prop :=
  (∀ (i : Instr) (s : State), ∃ t, exec i s = .next t) ∧ (∀ s : State, ∃ t, step s = .next t)

/-- The invariant of the registers (R25 to R28, R133, R135, R151, R156) holds after every step from a
state that meets it. -/
def Obligations.RegisterInvariantIsKept : Prop :=
  ∀ s t : State, Inv s → step s = .next t → Inv t

/-- The invariant of the registers holds at reset. -/
def Obligations.RegisterInvariantAtReset : Prop := Inv State.reset

/-- R27: whatever the host does, `DV` = 1 exactly when `DOUT` is the ciphertext, under the subkeys held,
of the most recent ENCRYPT accepted since the last LOADKEY, reset or fault, and that encryption is
complete: every step keeps the relation between the state and that block. -/
def Obligations.DataValidMeansTheLastCiphertext : Prop :=
  ∀ (s t : State) (g : Option Block), AnswersFor g s → step s = .next t →
    AnswersFor (lastBlock g s) t

/-- After reset no block has been accepted, and `DV` says so. -/
def Obligations.DataInvalidAtReset : Prop := AnswersFor none State.reset

/-- No register content that means nothing to the host (R35, U6: the subkeys before a LOADKEY, the
half-blocks outside the rounds; R185: `DOUT` while `DV` = 0) ever reaches one that means something: two
states that agree but for such contents, under the same host, agree so after any number of steps, and
show the same on `cmd_ready`, `status` and `fcause`, and on `dout` while `DV` = 1. What R35 and U11 say
of `DOUT` while `DV` = 0, that it keeps the last completed ciphertext, is not compared here. -/
def Obligations.UnspecifiedRegistersNeverMatter : Prop :=
  ∀ (n : Nat) (s u : State), SameSpecified s u →
    ∃ s' u', runFor n s = .next s' ∧ runFor n u = .next u' ∧ SameSpecified s' u' ∧
      s'.outputs.cmdReady = u'.outputs.cmdReady ∧ s'.outputs.status = u'.outputs.status ∧
      s'.outputs.fcause = u'.outputs.fcause ∧
      (s'.dv = true → s'.outputs.dout = u'.outputs.dout)
end

