-- ==== Sys2Proof/Laws/State.lean ====
section
/-! SUPPORT. What each register update does to each field of the state, true by definition, so that no
later proof unfolds a record update. -/

namespace Sys2Proof.Machine

variable (s : State)

/-! The fields after sampling the ports (R30). -/

@[simp] theorem State.sampled_k1 : s.sampled.k1 = s.k1 := rfl
@[simp] theorem State.sampled_k2 : s.sampled.k2 = s.k2 := rfl
@[simp] theorem State.sampled_l : s.sampled.l = s.l := rfl
@[simp] theorem State.sampled_r : s.sampled.r = s.r := rfl
@[simp] theorem State.sampled_dout : s.sampled.dout = s.dout := rfl
@[simp] theorem State.sampled_st : s.sampled.st = s.st := rfl
@[simp] theorem State.sampled_kv : s.sampled.kv = s.kv := rfl
@[simp] theorem State.sampled_dv : s.sampled.dv = s.dv := rfl
@[simp] theorem State.sampled_fcause : s.sampled.fcause = s.fcause := rfl
@[simp] theorem State.sampled_inputs : s.sampled.inputs = s.inputs.tail := rfl
@[simp] theorem State.sampled_draws : s.sampled.draws = s.draws := rfl

/-! The fields after driving the ports. -/

@[simp] theorem State.present_k1 (p : InPorts) : (s.present p).k1 = s.k1 := rfl
@[simp] theorem State.present_k2 (p : InPorts) : (s.present p).k2 = s.k2 := rfl
@[simp] theorem State.present_l (p : InPorts) : (s.present p).l = s.l := rfl
@[simp] theorem State.present_r (p : InPorts) : (s.present p).r = s.r := rfl
@[simp] theorem State.present_dout (p : InPorts) : (s.present p).dout = s.dout := rfl
@[simp] theorem State.present_st (p : InPorts) : (s.present p).st = s.st := rfl
@[simp] theorem State.present_kv (p : InPorts) : (s.present p).kv = s.kv := rfl
@[simp] theorem State.present_dv (p : InPorts) : (s.present p).dv = s.dv := rfl
@[simp] theorem State.present_fcause (p : InPorts) : (s.present p).fcause = s.fcause := rfl
@[simp] theorem State.present_inputs (p : InPorts) : (s.present p).inputs = p :: s.inputs.tail := rfl
@[simp] theorem State.present_draws (p : InPorts) : (s.present p).draws = s.draws := rfl

/-! The fields after fault entry (R154). -/

@[simp] theorem State.raiseFault_k1 (c : FaultCause) : (s.raiseFault c).k1 = s.k1 := rfl
@[simp] theorem State.raiseFault_k2 (c : FaultCause) : (s.raiseFault c).k2 = s.k2 := rfl
@[simp] theorem State.raiseFault_l (c : FaultCause) : (s.raiseFault c).l = s.l := rfl
@[simp] theorem State.raiseFault_r (c : FaultCause) : (s.raiseFault c).r = s.r := rfl
@[simp] theorem State.raiseFault_dout (c : FaultCause) : (s.raiseFault c).dout = s.dout := rfl
@[simp] theorem State.raiseFault_st (c : FaultCause) : (s.raiseFault c).st = .fault := rfl
@[simp] theorem State.raiseFault_kv (c : FaultCause) : (s.raiseFault c).kv = s.kv := rfl
@[simp] theorem State.raiseFault_dv (c : FaultCause) : (s.raiseFault c).dv = false := rfl
@[simp] theorem State.raiseFault_fcause (c : FaultCause) : (s.raiseFault c).fcause = some c := rfl
@[simp] theorem State.raiseFault_inputs (c : FaultCause) : (s.raiseFault c).inputs = s.inputs := rfl
@[simp] theorem State.raiseFault_draws (c : FaultCause) : (s.raiseFault c).draws = s.draws := rfl

/-! The fields after the reset step (R180). -/

@[simp] theorem State.resetStep_k1 : s.resetStep.k1 = Config.resetK1 s.draws := rfl
@[simp] theorem State.resetStep_k2 : s.resetStep.k2 = Config.resetK2 s.draws := rfl
@[simp] theorem State.resetStep_l : s.resetStep.l = Config.resetL s.draws := rfl
@[simp] theorem State.resetStep_r : s.resetStep.r = Config.resetR s.draws := rfl
@[simp] theorem State.resetStep_dout : s.resetStep.dout = Config.resetDout s.draws := rfl
@[simp] theorem State.resetStep_st : s.resetStep.st = .idle := rfl
@[simp] theorem State.resetStep_kv : s.resetStep.kv = false := rfl
@[simp] theorem State.resetStep_dv : s.resetStep.dv = false := rfl
@[simp] theorem State.resetStep_fcause : s.resetStep.fcause = none := rfl
@[simp] theorem State.resetStep_inputs : s.resetStep.inputs = s.inputs := rfl
@[simp] theorem State.resetStep_draws : s.resetStep.draws = s.draws + 1 := rfl

/-! The fields after LOADKEY (R123). -/

@[simp] theorem State.loadKey_k1 (key : Key) : (s.loadKey key).k1 = (keySchedule key).1 := rfl
@[simp] theorem State.loadKey_k2 (key : Key) : (s.loadKey key).k2 = (keySchedule key).2 := rfl
@[simp] theorem State.loadKey_l (key : Key) : (s.loadKey key).l = s.l := rfl
@[simp] theorem State.loadKey_r (key : Key) : (s.loadKey key).r = s.r := rfl
@[simp] theorem State.loadKey_dout (key : Key) : (s.loadKey key).dout = s.dout := rfl
@[simp] theorem State.loadKey_st (key : Key) : (s.loadKey key).st = s.st := rfl
@[simp] theorem State.loadKey_kv (key : Key) : (s.loadKey key).kv = true := rfl
@[simp] theorem State.loadKey_dv (key : Key) : (s.loadKey key).dv = false := rfl
@[simp] theorem State.loadKey_fcause (key : Key) : (s.loadKey key).fcause = s.fcause := rfl
@[simp] theorem State.loadKey_inputs (key : Key) : (s.loadKey key).inputs = s.inputs := rfl
@[simp] theorem State.loadKey_draws (key : Key) : (s.loadKey key).draws = s.draws := rfl

/-! The fields after the start of an encryption (R133). -/

@[simp] theorem State.startEncryption_k1 (p : Block) : (s.startEncryption p).k1 = s.k1 := rfl
@[simp] theorem State.startEncryption_k2 (p : Block) : (s.startEncryption p).k2 = s.k2 := rfl
@[simp] theorem State.startEncryption_l (p : Block) : (s.startEncryption p).l = (initialHalves p).1 := rfl
@[simp] theorem State.startEncryption_r (p : Block) : (s.startEncryption p).r = (initialHalves p).2 := rfl
@[simp] theorem State.startEncryption_dout (p : Block) : (s.startEncryption p).dout = s.dout := rfl
@[simp] theorem State.startEncryption_st (p : Block) : (s.startEncryption p).st = .round1 := rfl
@[simp] theorem State.startEncryption_kv (p : Block) : (s.startEncryption p).kv = s.kv := rfl
@[simp] theorem State.startEncryption_dv (p : Block) : (s.startEncryption p).dv = false := rfl
@[simp] theorem State.startEncryption_fcause (p : Block) : (s.startEncryption p).fcause = s.fcause := rfl
@[simp] theorem State.startEncryption_inputs (p : Block) : (s.startEncryption p).inputs = s.inputs := rfl
@[simp] theorem State.startEncryption_draws (p : Block) : (s.startEncryption p).draws = s.draws := rfl

/-! The fields after the ROUND1 step (R134). -/

@[simp] theorem State.round1Step_k1 : s.round1Step.k1 = s.k1 := rfl
@[simp] theorem State.round1Step_k2 : s.round1Step.k2 = s.k2 := rfl
@[simp] theorem State.round1Step_l : s.round1Step.l = s.r := rfl
@[simp] theorem State.round1Step_r : s.round1Step.r = seqXor s.l (roundF s.r s.k1) := rfl
@[simp] theorem State.round1Step_dout : s.round1Step.dout = s.dout := rfl
@[simp] theorem State.round1Step_st : s.round1Step.st = .round2 := rfl
@[simp] theorem State.round1Step_kv : s.round1Step.kv = s.kv := rfl
@[simp] theorem State.round1Step_dv : s.round1Step.dv = s.dv := rfl
@[simp] theorem State.round1Step_fcause : s.round1Step.fcause = s.fcause := rfl
@[simp] theorem State.round1Step_inputs : s.round1Step.inputs = s.inputs := rfl
@[simp] theorem State.round1Step_draws : s.round1Step.draws = s.draws := rfl

/-! The fields after the ROUND2 step (R135). -/

@[simp] theorem State.round2Step_k1 : s.round2Step.k1 = s.k1 := rfl
@[simp] theorem State.round2Step_k2 : s.round2Step.k2 = s.k2 := rfl
@[simp] theorem State.round2Step_l : s.round2Step.l = seqXor s.l (roundF s.r s.k2) := rfl
@[simp] theorem State.round2Step_r : s.round2Step.r = s.r := rfl
@[simp] theorem State.round2Step_dout :
    s.round2Step.dout = fp (join (seqXor s.l (roundF s.r s.k2)) s.r) := rfl
@[simp] theorem State.round2Step_st : s.round2Step.st = .idle := rfl
@[simp] theorem State.round2Step_kv : s.round2Step.kv = s.kv := rfl
@[simp] theorem State.round2Step_dv : s.round2Step.dv = true := rfl
@[simp] theorem State.round2Step_fcause : s.round2Step.fcause = s.fcause := rfl
@[simp] theorem State.round2Step_inputs : s.round2Step.inputs = s.inputs := rfl
@[simp] theorem State.round2Step_draws : s.round2Step.draws = s.draws := rfl

end Sys2Proof.Machine
end

