-- ==== Sys2Proof/Laws/Ops.lean ====
section
/-! SUPPORT. One lemma per shared operation that says everything it can do; proofs cite these and do
not unfold the operations. -/

namespace Sys2Proof.Machine

variable {s t : State}

/-- Past the end of `inputs` the host is idle (log entry 2). -/
theorem ports_of_nil (h : s.inputs = []) : s.ports = InPorts.idle := by
  simp [State.ports, h]

/-- The head of `inputs` is what the coming step samples. -/
theorem ports_of_cons {p : InPorts} {rest : List InPorts} (h : s.inputs = p :: rest) :
    s.ports = p := by
  simp [State.ports, h]

@[simp] theorem ports_present (p : InPorts) : (s.present p).ports = p := rfl

@[simp] theorem sampled_present (p : InPorts) : (s.present p).sampled = s.sampled := rfl

@[simp] theorem idle_rst : InPorts.idle.rst = false := rfl

@[simp] theorem idle_cmd : InPorts.idle.cmd = 0x000#12 := rfl

/-- In IDLE a command has its effect (R61). -/
theorem whenIdle_of_idle (f : State → State) (h : s.st = .idle) : whenIdle f s = f s := by
  simp [whenIdle, h]

/-- Outside IDLE a command has no effect of any kind (R61). -/
theorem whenIdle_of_ne (f : State → State) (h : s.st ≠ .idle) : whenIdle f s = s := by
  simp [whenIdle, h]

/-- All that accepting can do. -/
theorem whenIdle_cases (f : State → State) (h : whenIdle f s = t) :
    (s.st = .idle ∧ t = f s) ∨ (s.st ≠ .idle ∧ t = s) := by
  by_cases hs : s.st = .idle
  · exact .inl ⟨hs, by rw [← h, whenIdle_of_idle f hs]⟩
  · exact .inr ⟨hs, by rw [← h, whenIdle_of_ne f hs]⟩

/-- All that ENCRYPT's accept step can do (R133). -/
theorem acceptEncrypt_cases (p : Block) :
    (s.kv = true ∧ s.acceptEncrypt p = s.startEncryption p) ∨
      (s.kv = false ∧ s.acceptEncrypt p = s.raiseFault .nokey) := by
  cases h : s.kv <;> simp [State.acceptEncrypt, h]

/-- All that a step can do: reset, hold a fault, a round, or the decoded command (R138). -/
theorem clockEdge_cases {p : InPorts} (h : clockEdge p s = .next t) :
    (p.rst = true ∧ t = s.resetStep) ∨
    (p.rst = false ∧ s.st = .fault ∧ t = s) ∨
    (p.rst = false ∧ s.st = .round1 ∧ t = s.round1Step) ∨
    (p.rst = false ∧ s.st = .round2 ∧ t = s.round2Step) ∨
    (p.rst = false ∧ s.st = .idle ∧ exec (decode p.cmd) s = .next t) := by
  unfold clockEdge at h
  cases hr : p.rst <;> cases hs : s.st <;> simp_all

/-- `step` is the clock edge with the sampled ports (R30). -/
theorem step_eq : step s = clockEdge s.ports s.sampled := rfl

end Sys2Proof.Machine
end

