-- ==== Sys2Proof/Laws/PerInstr.lean ====
section
/-! SUPPORT. Statements made of every instruction as syntax, one lemma per constructor. -/

namespace Sys2Proof.Laws.RowMatch

open Sys2Proof

/-- The word of a command lies in its row of the opcode table (R62): `(w & mask) == match`. -/
def Statement (i : Instr) : Prop := encode i &&& rowMask i = rowMatch i

/-- The mask `0xC00` keeps the two opcode bits and clears the ten operand bits. -/
theorem mask_op (op : BitVec 2) (arg : BitVec 10) :
    Machine.cmdOf op arg &&& 0xC00#12 = Machine.cmdOf op 0#10 := by
  have h : 0xC00#12 = BitVec.allOnes 2 ++ 0#10 := by decide
  rw [h, Machine.cmdOf, BitVec.and_append, BitVec.and_allOnes, BitVec.and_zero, Machine.cmdOf]

/-- The mask `0xF00` keeps the opcode bits and `cmd[9:8]` and clears the eight operand bits. -/
theorem mask_high (op high : BitVec 2) (x : BitVec 8) :
    Machine.cmdOf op (high ++ x) &&& 0xF00#12 = Machine.cmdOf op (high ++ 0#8) := by
  have h : 0xF00#12 = BitVec.allOnes 2 ++ (BitVec.allOnes 2 ++ 0#8) := by decide
  rw [h, Machine.cmdOf, BitVec.and_append, BitVec.and_append, BitVec.and_allOnes,
    BitVec.and_allOnes, BitVec.and_zero, Machine.cmdOf]

theorem nop (arg : BitVec 10) : Statement (.nop arg) := mask_op 0b00#2 arg

theorem loadkey (key : Key) : Statement (.loadkey key) := mask_op 0b01#2 key

theorem encrypt (p : Block) : Statement (.encrypt p) := mask_high 0b10#2 0b00#2 p

theorem reservedBadlen01 (x : BitVec 8) : Statement (.reservedBadlen01 x) :=
  mask_high 0b10#2 0b01#2 x

theorem reservedBadlen10 (x : BitVec 8) : Statement (.reservedBadlen10 x) :=
  mask_high 0b10#2 0b10#2 x

theorem reservedBadlen11 (x : BitVec 8) : Statement (.reservedBadlen11 x) :=
  mask_high 0b10#2 0b11#2 x

theorem reservedBadop (x : BitVec 10) : Statement (.reservedBadop x) := mask_op 0b11#2 x

end Sys2Proof.Laws.RowMatch
end

