-- ==== Sys2Proof/Laws/Primitives.lean ====
section
/-! SUPPORT. The small lemmas of the bit-sequence primitives and of the cipher's halves. -/

namespace Sys2Proof.Machine

@[simp] theorem permute_nil {n : Nat} (s : BitVec n) : permute s [] = 0#0 := rfl

theorem permute_cons {n : Nat} (s : BitVec n) (t : Fin n) (ts : List (Fin n)) :
    permute s (t :: ts) = BitVec.cons (seqBit s t) (permute s ts) := rfl

/-- Two sequences of one length with the same elements are the same (R6). -/
theorem eq_of_seqBit_eq {n : Nat} {a b : BitVec n} (h : ∀ i, seqBit a i = seqBit b i) : a = b := by
  apply BitVec.eq_of_getLsbD_eq
  intro i hi
  have := h ⟨n - 1 - i, by omega⟩
  simpa [seqBit, show n - 1 - (n - 1 - i) = i by omega] using this

@[simp] theorem swapRound_fst (k : Subkey) (lr : Half × Half) : (swapRound k lr).1 = lr.2 := rfl

@[simp] theorem swapRound_snd (k : Subkey) (lr : Half × Half) :
    (swapRound k lr).2 = seqXor lr.1 (roundF lr.2 k) := rfl

@[simp] theorem lastRound_fst (k : Subkey) (lr : Half × Half) :
    (lastRound k lr).1 = seqXor lr.1 (roundF lr.2 k) := rfl

@[simp] theorem lastRound_snd (k : Subkey) (lr : Half × Half) : (lastRound k lr).2 = lr.2 := rfl

end Sys2Proof.Machine
end

