-- ==== Sys2Proof/Laws/Step.lean ====
section
/-! SUPPORT. Everything one step can do, said once (R138), and the laws of running several steps. -/

namespace Sys2Proof.Machine

open Sys2Proof.Safety

/-- What a step does, case by case, as R138's table lists it. -/
inductive StepTo (s : State) : State → Prop where
  | reset (hr : s.ports.rst = true) : StepTo s s.sampled.resetStep
  | hold (hr : s.ports.rst = false) (hs : s.st = .fault) : StepTo s s.sampled
  | round1 (hr : s.ports.rst = false) (hs : s.st = .round1) : StepTo s s.sampled.round1Step
  | round2 (hr : s.ports.rst = false) (hs : s.st = .round2) : StepTo s s.sampled.round2Step
  | nop (hr : s.ports.rst = false) (hs : s.st = .idle) (arg : BitVec 10)
      (hd : offered s = .nop arg) : StepTo s s.sampled
  | loadkey (hr : s.ports.rst = false) (hs : s.st = .idle) (key : Key)
      (hd : offered s = .loadkey key) : StepTo s (s.sampled.loadKey key)
  | encrypt (hr : s.ports.rst = false) (hs : s.st = .idle) (p : Block)
      (hd : offered s = .encrypt p) (hk : s.kv = true) : StepTo s (s.sampled.startEncryption p)
  | nokey (hr : s.ports.rst = false) (hs : s.st = .idle) (p : Block)
      (hd : offered s = .encrypt p) (hk : s.kv = false) :
      StepTo s (s.sampled.raiseFault .nokey)
  | badlen01 (hr : s.ports.rst = false) (hs : s.st = .idle) (x : BitVec 8)
      (hd : offered s = .reservedBadlen01 x) : StepTo s (s.sampled.raiseFault .badlen)
  | badlen10 (hr : s.ports.rst = false) (hs : s.st = .idle) (x : BitVec 8)
      (hd : offered s = .reservedBadlen10 x) : StepTo s (s.sampled.raiseFault .badlen)
  | badlen11 (hr : s.ports.rst = false) (hs : s.st = .idle) (x : BitVec 8)
      (hd : offered s = .reservedBadlen11 x) : StepTo s (s.sampled.raiseFault .badlen)
  | badop (hr : s.ports.rst = false) (hs : s.st = .idle) (x : BitVec 10)
      (hd : offered s = .reservedBadop x) : StepTo s (s.sampled.raiseFault .badop)

/-- Inversion of a step: a next state is one of R138's. -/
theorem step_cases {s t : State} (h : step s = .next t) : StepTo s t := by
  rcases clockEdge_cases h with ⟨hr, rfl⟩ | ⟨hr, hs, rfl⟩ | ⟨hr, hs, rfl⟩ | ⟨hr, hs, rfl⟩ | ⟨hr, hs, he⟩
  · exact .reset hr
  · exact .hold hr hs
  · exact .round1 hr hs
  · exact .round2 hr hs
  · change exec (offered s) s.sampled = _ at he
    have hi (f) := whenIdle_of_idle f hs
    cases hd : offered s <;> rw [hd] at he <;> injection he with he <;> subst he
    · exact .nop hr hs _ hd
    · rw [hi]; exact .loadkey hr hs _ hd
    · rw [hi]
      rcases acceptEncrypt_cases (s := s.sampled) _ with ⟨hk, ht⟩ | ⟨hk, ht⟩ <;> rw [ht]
      · exact .encrypt hr hs _ hd hk
      · exact .nokey hr hs _ hd hk
    · rw [hi]; exact .badlen01 hr hs _ hd
    · rw [hi]; exact .badlen10 hr hs _ hd
    · rw [hi]; exact .badlen11 hr hs _ hd
    · rw [hi]; exact .badop hr hs _ hd

@[simp] theorem runFor_zero (s : State) : runFor 0 s = .next s := rfl

/-- A run is its first step and then the rest. -/
theorem runFor_succ {s t : State} (h : step s = .next t) (n : Nat) :
    runFor (n + 1) s = runFor n t := by
  rw [runFor, h]

/-- Two runs one after the other. -/
theorem runFor_add {m : Nat} (n : Nat) {s t : State} (h : runFor m s = .next t) :
    runFor (m + n) s = runFor n t := by
  induction m generalizing s with
  | zero => injection h with h; rw [h, Nat.zero_add]
  | succ m ih =>
    rw [Nat.add_right_comm, runFor]
    rw [runFor] at h
    split at h
    · exact ih h
    · cases h
    · cases h

end Sys2Proof.Machine
end

