-- ==== Sys2Proof/Machine/Text.lean ====
section
/-! DEFINITION. The textual syntax of R71: from a line's characters to a source line, and from a
source command to its word. There are no pseudo-instructions (R72). -/

namespace Sys2Proof.Machine

/-- The value of one digit character; the letters count from 10 in either case. -/
def digitValue (c : Char) : Nat :=
  if '0' ≤ c && c ≤ '9' then c.toNat - '0'.toNat
  else if 'A' ≤ c && c ≤ 'F' then c.toNat - 'A'.toNat + 10
  else c.toNat - 'a'.toNat + 10

/-- `value(s)`: a digit string read as a numeral, the first digit the highest (R71). -/
def numeral (base : Nat) (ds : List Char) : Nat :=
  ds.foldl (fun acc c => base * acc + digitValue c) 0

/-- The word of a source command; none for what is no command of the syntax (R71). -/
def assemble (c : SourceCmd) : Option CmdWord :=
  if c.wellFormed then
    match c with
    | .nop => some 0x000#12
    | .loadkey ds => some (0x400#12 ||| BitVec.ofNat 12 (numeral 2 ds))
    | .encrypt ds => some (0x800#12 ||| BitVec.ofNat 12 (numeral 2 ds))
    | .word ds => some (BitVec.ofNat 12 (numeral 16 ds))
  else none

/-- The characters before `;`, which starts a comment (R71). -/
def dropComment (cs : List Char) : List Char := cs.takeWhile (· != ';')

/-- What separates the parts of a line (log entry 10). -/
def isBlank (c : Char) : Bool := c == ' ' || c == '\t'

/-- The parts of a line: its longest runs of characters that are no blanks. -/
def tokens (cs : List Char) : List (List Char) := (cs.splitOnP isBlank).filter (· ≠ [])

/-- One command as the tokens of its line name it (R71). -/
def parseCmd : List (List Char) → Option SourceCmd
  | [['N', 'O', 'P']] => some .nop
  | [['L', 'O', 'A', 'D', 'K', 'E', 'Y'], ds] => some (.loadkey ds)
  | [['E', 'N', 'C', 'R', 'Y', 'P', 'T'], ds] => some (.encrypt ds)
  | [['.', 'w', 'o', 'r', 'd'], '0' :: 'x' :: ds] => some (.word ds)
  | _ => none

/-- One line: a command, a command after `!`, or `.reset`, which a `!` before it leaves as it is
(R71, R73); none for anything else. -/
def parseLine (cs : List Char) : Option SourceLine :=
  match tokens (dropComment cs) with
  | [['.', 'r', 'e', 's', 'e', 't']] => some .reset
  | [['!'], ['.', 'r', 'e', 's', 'e', 't']] => some .reset
  | ['!'] :: rest => (parseCmd rest).map .bang
  | ts => (parseCmd ts).map .plain

end Sys2Proof.Machine
end

