-- ==== Sys2Proof/Machine/Driver.lean ====
section
/-! DEFINITION. The host driver convention of R73: what a host that runs a program drives on the input
ports, step by step, from the outputs it sees. It is no part of the engine; no rule of the step
depends on it. -/

namespace Sys2Proof.Machine

/-- A line of a program with its command assembled (R73). -/
inductive HostLine where
  | plain (w : CmdWord)
  | bang (w : CmdWord)
  | reset
  deriving DecidableEq, Repr

/-- A source line with its command's word; none where the command has no word (R71). -/
def assembleLine : SourceLine → Option HostLine
  | .plain c => (assemble c).map .plain
  | .bang c => (assemble c).map .bang
  | .reset => some .reset

/-- What the host drives at the next step and the lines it still has; none when the program has
ended. A plain line waits with NOPs for `cmd_ready` = 1, a `!` line and `.reset` do not wait, and
after the last line the host waits for `cmd_ready` = 1 or FLT = 1 (R73). -/
def hostTurn (lines : List HostLine) (o : OutPorts) : Option (InPorts × List HostLine) :=
  match lines with
  | [] => if o.cmdReady || o.status.getLsbD 3 then none else some (InPorts.idle, [])
  | .plain w :: rest =>
    if o.cmdReady then some ({ rst := false, cmd := w }, rest)
    else some (InPorts.idle, lines)
  | .bang w :: rest => some ({ rst := false, cmd := w }, rest)
  | .reset :: rest => some ({ rst := true, cmd := 0x000#12 }, rest)

/-- Where a driven run stands after a number of steps. -/
inductive DriveResult where
  /-- The program has ended in this state (R73). -/
  | ended (s : State)
  /-- The steps are used up, these lines remain. -/
  | running (lines : List HostLine) (s : State)
  /-- A step gave no next state. -/
  | stopped
  deriving DecidableEq, Repr

/-- At most `fuel` steps of the engine under the driver (R73). -/
def drive : Nat → List HostLine → State → DriveResult
  | 0, lines, s =>
    match hostTurn lines s.outputs with
    | none => .ended s
    | some _ => .running lines s
  | fuel + 1, lines, s =>
    match hostTurn lines s.outputs with
    | none => .ended s
    | some (p, rest) =>
      match step (s.present p) with
      | .next s' => drive fuel rest s'
      | .fault _ => .stopped
      | .refused _ => .stopped

/-- A program from its initial reset step on (R73, R183). -/
def runProgram (fuel : Nat) (lines : List HostLine) (s : State) : DriveResult :=
  drive fuel (.reset :: lines) s

end Sys2Proof.Machine
end

