-- ==== Sys2Proof/Tests/Slice0.lean ====
section
/-! SUPPORT. Tests of the model against the spec's own examples and tables, and for every statement with
hypotheses a state and operands that meet them. -/

namespace Sys2Proof.Tests

open Sys2Proof Sys2Proof.Machine Sys2Proof.Safety

/-! The named states of 95_test_vectors.md section 4 (A is `State.reset`), and what a step shows. -/

/-- State B: the golden key loaded. -/
def stateB : State := { State.reset with k1 := 0xA4, k2 := 0x43, kv := true }

/-- State D: in ROUND1 of the golden encryption. -/
def stateD : State := { stateB with st := .round1, l := 0b0111, r := 0b0100 }

/-- State E: in ROUND2 of the golden encryption. -/
def stateE : State := { stateB with st := .round2, l := 0b0100, r := 0b0011 }

/-- State C: the golden encryption complete. -/
def stateC : State := { stateB with dv := true, l := 0b1001, r := 0b0011, dout := 0xCA }

/-- State H: C, then a reserved word. -/
def stateH : State := { stateC with st := .fault, dv := false, fcause := some .badop }

/-- The state with word `w` on `cmd` and `rst` = 0 at the coming step. -/
def cmd (s : State) (w : CmdWord) : State := s.present (driving w)

/-- The state with `rst` = 1 and word `w` on `cmd` at the coming step. -/
def rst (s : State) (w : CmdWord) : State := s.present { rst := true, cmd := w }

/-- What `f` shows of an outcome's next state. -/
def look {α : Type} (f : State → α) : Host.Outcome State Fault Refusal → Option α
  | .next s => some (f s)
  | .fault _ => none
  | .refused _ => none

/-! WellFormed: an ill-formed term for each check (R71, C2). -/

theorem test_wf_loadkey_nine_digits :
    (SourceCmd.loadkey ['1', '0', '1', '0', '0', '0', '0', '0', '1']).wellFormed = false := by decide

theorem test_wf_loadkey_not_binary :
    (SourceCmd.loadkey ['1', '0', '1', '0', '0', '0', '0', '0', '1', '2']).wellFormed = false := by
  decide

theorem test_wf_encrypt_nine_digits :
    (SourceCmd.encrypt ['1', '0', '1', '0', '0', '1', '0', '1', '0']).wellFormed = false := by decide

theorem test_wf_encrypt_not_binary :
    (SourceCmd.encrypt ['1', '0', '1', '0', 'x', '1', '0', '1']).wellFormed = false := by decide

theorem test_wf_word_two_digits : (SourceCmd.word ['C', '0']).wellFormed = false := by decide

theorem test_wf_word_not_hex : (SourceCmd.word ['C', '0', 'G']).wellFormed = false := by decide

theorem test_wf_line : (SourceLine.bang (.word ['C', '0'])).wellFormed = false := by decide

theorem test_wf_table_entry_equal_to_length : tableWellFormed 4 [3, 0, 4] = false := by decide

theorem test_wf_instr : (Instr.reservedBadop 0x3FF).wellFormed = true := by decide

/-! Decode and encode: words written out from R62 (95_test_vectors.md section 2). -/

theorem test_decode_nop : decode 0b00_1010100101#12 = .nop 0b1010100101 := by decide

theorem test_decode_loadkey : decode 0b01_1010000010#12 = .loadkey 0b1010000010 := by decide

theorem test_decode_encrypt : decode 0b10_00_10100101#12 = .encrypt 0b10100101 := by decide

theorem test_decode_badlen01 : decode 0b10_01_00000000#12 = .reservedBadlen01 0 := by decide

theorem test_decode_badlen10 : decode 0b10_10_10100101#12 = .reservedBadlen10 0xA5 := by decide

theorem test_decode_badlen11 : decode 0b10_11_11111111#12 = .reservedBadlen11 0xFF := by decide

theorem test_decode_badop : decode 0b11_0010100101#12 = .reservedBadop 0b0010100101 := by decide

theorem test_decode_first_badop : decode 0xC00#12 = .reservedBadop 0 := by decide

theorem test_decode_too_wide : decodeNat 4096 = .error .widerThanCmd := by decide

theorem test_table_word : decodeTableWord 16 0x8A5 = some (.encrypt 0xA5) := by decide

theorem test_encode_loadkey : encode (.loadkey 0b0111111101) = 0x5FD#12 := by decide

/-! Networks, S-boxes, F, KS, ENC (95_test_vectors.md section 3). -/

theorem test_p10_one_hot : p10 0b0000000001 = 0b0000010000 := by decide

theorem test_p8_drops_index_0_and_1 : p8 0b1100000000 = 0 := by decide

theorem test_ip : ip 0b11110000 = 0b10111000 := by decide

theorem test_fp : fp 0b00001111 = 0b00011011 := by decide

theorem test_ep : ep 0b1011 = 0b11010111 := by decide

theorem test_p4 : p4 0b0101 = 0b1100 := by decide

theorem test_rotl_wraps : rotl 0b10011#5 2 = 0b01110#5 := by decide

theorem test_s0_row3 : s0 0b1101 = 0b11 := by decide

theorem test_s1_row2 : s1 0b1010 = 0b00 := by decide

theorem test_f : roundF 0b1001 0b10100100 = 0b0111 := by decide

theorem test_ks : keySchedule 0b0010010111 = (0b00101111, 0b11101010) := by decide

theorem test_enc : enc 0x5F 0xFC 0b10101010 = 0b00010110 := by decide

/-! One step (95_test_vectors.md section 4). -/

theorem test_nop_keeps_valid :
    look (fun t => (t.dv, t.dout)) (step (cmd stateC 0x3FF)) = some (true, 0xCA) := by decide

theorem test_loadkey_golden :
    look (fun t => (t.k1, t.k2)) (step (cmd State.reset 0x682)) = some (0xA4, 0x43) := by decide

theorem test_loadkey_clears_valid :
    look (fun t => (t.dv, t.dout)) (step (cmd stateC 0x400)) = some (false, 0xCA) := by decide

theorem test_encrypt_accepted :
    look (fun t => (t.st, t.l, t.r)) (step (cmd stateB 0x8A5)) =
      some (.round1, 0b0111, 0b0100) := by decide

theorem test_encrypt_without_key :
    look (fun t => (t.st, t.fcause)) (step (cmd State.reset 0x8A5)) =
      some (.fault, some .nokey) := by decide

theorem test_badlen01_before_nokey :
    look (fun t => (t.st, t.fcause)) (step (cmd State.reset 0x9A5)) =
      some (.fault, some .badlen) := by decide

theorem test_badlen10 :
    look (fun t => (t.fcause, t.dv)) (step (cmd stateC 0xAA5)) = some (some .badlen, false) := by
  decide

theorem test_badlen11 :
    look (fun t => (t.fcause, t.dout)) (step (cmd stateC 0xBFF)) = some (some .badlen, 0xCA) := by
  decide

theorem test_badop :
    look (fun t => (t.st, t.outputs.status)) (step (cmd stateC 0xE82)) = some (.fault, 0b1010) := by
  decide

theorem test_round1_ignores_loadkey :
    look (fun t => (t.st, t.l, t.r, t.k1)) (step (cmd stateD 0x7FF)) =
      some (.round2, 0b0100, 0b0011, 0xA4) := by decide

theorem test_round2_golden :
    look (fun t => (t.st, t.l, t.dout)) (step (cmd stateE 0xC00)) =
      some (.idle, 0b1001, 0xCA) := by decide

theorem test_reset_wins_over_encrypt :
    look (fun t => (t.st, t.kv, t.dv)) (step (rst stateC 0x8A5)) = some (.idle, false, false) := by
  decide

theorem test_reset_abandons_round :
    look (fun t => (t.st, t.dv)) (step (rst stateE 0x000)) = some (.idle, false) := by decide

theorem test_fault_keeps_cause :
    look (fun t => (t.st, t.fcause)) (step (cmd stateH 0x9A5)) = some (.fault, some .badop) := by
  decide

theorem test_placed_word_is_accepted :
    look (fun t => t.kv) (step (State.reset.withFetchWord 16 0x682)) = some true := by decide

theorem test_idle_host_at_reset :
    look (fun t => t.st) (step State.reset) = some .idle := by decide

/-! The textual syntax and the driver (R71, R73). -/

theorem test_parse_comment :
    parseLine ['N', 'O', 'P', ' ', ';', ' ', 'x'] = some (.plain .nop) := by decide

theorem test_parse_bang_word :
    (parseLine ['!', ' ', '.', 'w', 'o', 'r', 'd', ' ', '0', 'x', 'C', '0', '0']).bind assembleLine =
      some (.bang 0xC00) := by decide

theorem test_assemble_loadkey :
    assemble (.loadkey ['1', '0', '1', '0', '0', '0', '0', '0', '1', '0']) = some 0x682#12 := by
  decide

theorem test_driver_waits_while_busy :
    hostTurn [.plain 0x8A5] stateD.outputs = some (InPorts.idle, [.plain 0x8A5]) := by decide

theorem test_driver_ends_in_fault : hostTurn [] stateH.outputs = none := by decide

/-! Witnesses: for each statement with hypotheses, what meets them, clause by clause. -/

theorem witness_RoundFunctionBitByBit :
    (List.finRange 4).map (seqBit 0b1000#4) =
      [seqBit 0b0100#4 3 ^^ seqBit 0xA4#8 0, seqBit 0b0100#4 0 ^^ seqBit 0xA4#8 1,
       seqBit 0b0100#4 1 ^^ seqBit 0xA4#8 2, seqBit 0b0100#4 2 ^^ seqBit 0xA4#8 3] ∧
    (List.finRange 4).map (seqBit 0b1100#4) =
      [seqBit 0b0100#4 1 ^^ seqBit 0xA4#8 4, seqBit 0b0100#4 2 ^^ seqBit 0xA4#8 5,
       seqBit 0b0100#4 3 ^^ seqBit 0xA4#8 6, seqBit 0b0100#4 0 ^^ seqBit 0xA4#8 7] := by decide

theorem witness_EncryptIsTheSixSteps :
    ip 0xA5#8 = 0b0111#4 ++ 0b0100#4 ∧
    0b0011#4 = 0b0111#4 ^^^ roundF 0b0100#4 0xA4#8 ∧
    0b1001#4 = 0b0100#4 ^^^ roundF 0b0011#4 0x43#8 := by decide

theorem witness_DecodeFollowsTheFields :
    (0x3FF#12).extractLsb' 10 2 = 0b00#2 ∧ (0x400#12).extractLsb' 10 2 = 0b01#2 ∧
    (0x7FF#12).extractLsb' 10 2 = 0b01#2 ∧
    ((0x800#12).extractLsb' 10 2 = 0b10#2 ∧ (0x8FF#12).extractLsb' 8 2 = 0b00#2 ∧
      (0x8FF#12).extractLsb' 10 2 = 0b10#2) ∧
    ((0x900#12).extractLsb' 10 2 = 0b10#2 ∧ (0x900#12).extractLsb' 8 2 = 0b01#2) ∧
    ((0xA00#12).extractLsb' 10 2 = 0b10#2 ∧ (0xA00#12).extractLsb' 8 2 = 0b10#2) ∧
    ((0xBFF#12).extractLsb' 10 2 = 0b10#2 ∧ (0xBFF#12).extractLsb' 8 2 = 0b11#2) ∧
    (0xC00#12).extractLsb' 10 2 = 0b11#2 := by decide

theorem witness_OperandsLieOnTheirCommandBits :
    decode 0x7FF#12 = .loadkey 0x3FF#10 ∧ decode 0x8FF#12 = .encrypt 0xFF#8 := by decide

theorem witness_NopChangesNothing : 0x3FF#12 &&& 0xC00#12 = 0x000#12 := by decide

theorem witness_LoadkeyStoresTheSubkeys :
    0x7FF#12 &&& 0xC00#12 = 0x400#12 ∧ State.reset.st = .idle ∧ stateD.st ≠ .idle := by decide

theorem witness_EncryptStartsOrFaultsNokey :
    0x8FF#12 &&& 0xF00#12 = 0x800#12 ∧ (stateB.st = .idle ∧ stateB.kv = true) ∧
    (State.reset.st = .idle ∧ State.reset.kv = false) ∧ stateE.st ≠ .idle ∧
    (stateB.st = .idle ∧ stateB.kv = true ∧ ({ stateB with inputs := [driving 0x8A5, driving 0x7FF,
      driving 0xC00] } : State).inputs = driving (encode (.encrypt 0xA5)) :: driving 0x7FF ::
        driving 0xC00 :: []) := by decide

theorem witness_ReservedEncodingsFault :
    stateC.st = .idle ∧ stateH.st ≠ .idle ∧ (0xC00#12).extractLsb' 10 2 = 0b11#2 ∧
    (0x900#12).extractLsb' 10 2 = 0b10#2 ∧ (0x900#12).extractLsb' 8 2 ≠ 0b00#2 ∧
    (0xBFF#12).extractLsb' 10 2 = 0b10#2 ∧ (0xBFF#12).extractLsb' 8 2 ≠ 0b00#2 := by decide

theorem witness_AcceptedReservedWordsFault :
    ((cmd stateC 0xFFF).ports.rst = false ∧ (cmd stateC 0xFFF).st = .idle ∧
      (cmd stateC 0xFFF).ports.cmd.extractLsb' 10 2 = 0b11#2) ∧
    ((cmd State.reset 0x900).ports.rst = false ∧ (cmd State.reset 0x900).st = .idle ∧
      (cmd State.reset 0x900).ports.cmd.extractLsb' 10 2 = 0b10#2 ∧
      (cmd State.reset 0x900).ports.cmd.extractLsb' 8 2 ≠ 0b00#2) := by decide

theorem witness_CommandsKeepWhatTheyDoNotWrite :
    (∃ t, exec (.encrypt 0xA5) stateB = .next t) ∧ (∃ t, exec (.nop 0) stateB = .next t) ∧
    (∃ t, exec (.loadkey 0x282) State.reset = .next t) ∧ stateB.kv = true ∧
    (∃ t, exec (.encrypt 0xA5) State.reset = .next t) ∧ State.reset.kv = false :=
  ⟨⟨_, rfl⟩, ⟨_, rfl⟩, ⟨_, rfl⟩, rfl, ⟨_, rfl⟩, rfl⟩

theorem witness_StepRunsTheAcceptedCommand :
    ((cmd stateB 0x8A5).ports.rst = false ∧ (cmd stateB 0x8A5).st = .idle) ∧
    (true = true ∨ stateB.st ≠ .idle) ∧ (false = true ∨ stateD.st ≠ .idle) := by decide

theorem witness_Round1StepAsStated :
    (cmd stateD 0x7FF).ports.rst = false ∧ (cmd stateD 0x7FF).st = .round1 := by decide

theorem witness_Round2StepAsStated :
    (cmd stateE 0xC00).ports.rst = false ∧ (cmd stateE 0xC00).st = .round2 := by decide

theorem witness_StepIsTheTableOfTheSequencer :
    (rst stateE 0xFFF).ports.rst = true ∧ (cmd stateC 0xFFF).ports.rst = false := by decide

theorem witness_BusyStepsIgnoreTheCommand :
    stateD.st ≠ .idle ∧ stateE.busy = true ∧
    (∃ t, step (cmd stateE 0xC00) = .next t) ∧
    (∃ t, step (cmd { stateE with dout := 0xFF } 0x000) = .next t) ∧
    (cmd stateE 0xC00).ports.rst = false :=
  ⟨by decide, by decide, ⟨_, rfl⟩, ⟨_, rfl⟩, by decide⟩

/-- State B under a host that gives ENCRYPT and then other words. -/
def encrypting : State :=
  { stateB with inputs := [driving 0x8A5, driving 0x7FF, driving 0xC00] }

theorem witness_EncryptionEndToEnd :
    encrypting.st = .idle ∧ encrypting.kv = true ∧
    encrypting.inputs = driving (encode (.encrypt 0xA5)) :: driving 0x7FF :: driving 0xC00 :: [] ∧
    (encrypting.k1, encrypting.k2) = keySchedule 0b1010000010 := by decide

/-- State A under a host that gives the golden LOADKEY and ENCRYPT. -/
def loading : State :=
  { State.reset with inputs := [driving 0x682, driving 0x8A5, driving 0x000, driving 0xC00] }

theorem witness_LoadThenEncryptGivesTheCiphertext :
    loading.st = .idle ∧
    loading.inputs = driving (encode (.loadkey 0x282)) :: driving (encode (.encrypt 0xA5)) ::
      driving 0x000 :: driving 0xC00 :: [] := by decide

/-- A sequence of accepted commands whose last one faults. -/
def sampleCommands : List (Instr × List CmdWord) :=
  [(.nop 0x3FF, []), (.loadkey 0x282, []), (.encrypt 0xA5, [0x7FF, 0xC00]), (.reservedBadop 0, [])]

theorem witness_CommandsApplyOneAfterAnother :
    ({ State.reset with inputs := schedule sampleCommands ++ [] } : State).st = .idle ∧
    scheduleFits State.reset.kv sampleCommands = true ∧
    scheduleFits State.reset.kv [(.encrypt 0xA5, [])] = true := by decide

/-- The reset state with an ENCRYPT and then a LOADKEY to come. -/
def faulting : State := { State.reset with inputs := [driving 0x8A5, driving 0x682] }

theorem witness_StepCountsToReady :
    (rst stateE 0x000).ports.rst = true ∧
    (accepts (cmd stateC 0x400) = true ∧ commandObeys false (offered (cmd stateC 0x400)) = true) ∧
    (accepts encrypting = true ∧ offered encrypting = .encrypt 0xA5 ∧ encrypting.kv = true ∧
      3 ≤ encrypting.inputs.length ∧ ∀ q ∈ encrypting.inputs.take 3, q.rst = false) ∧
    (accepts faulting = true ∧ commandObeys faulting.kv (offered faulting) = false ∧
      2 ≤ faulting.inputs.length ∧ ∀ q ∈ faulting.inputs.take 2, q.rst = false) := by decide

theorem witness_FaultsHaveThreeCauses :
    ((cmd stateC 0xFFF).st ≠ .fault ∧ ∃ t, step (cmd stateC 0xFFF) = .next t ∧ t.st = .fault) ∧
    (∃ t, step (cmd stateC 0x900) = .next t ∧ t.st = .fault) ∧
    (∃ t, step (cmd State.reset 0x800) = .next t ∧ t.st = .fault) :=
  ⟨⟨by decide, _, rfl, rfl⟩, ⟨_, rfl, rfl⟩, ⟨_, rfl, rfl⟩⟩

theorem witness_FaultEntryWritesThreeRegisters :
    accepts (cmd State.reset 0x8A5) = true ∧
    commandObeys (cmd State.reset 0x8A5).kv (offered (cmd State.reset 0x8A5)) = false := by decide

theorem witness_FaultPriority :
    ((∃ t, step (rst stateH 0xC00) = .next t) ∧ (rst stateH 0xC00).ports.rst = true) ∧
    ((∃ t, step (cmd stateD 0xC00) = .next t) ∧ (cmd stateD 0xC00).st ≠ .idle) ∧
    ((∃ t, step (cmd State.reset 0x9A5) = .next t) ∧ (cmd State.reset 0x9A5).st = .idle ∧
      (cmd State.reset 0x9A5).ports.cmd.extractLsb' 10 2 = 0b10 ∧
      (cmd State.reset 0x9A5).ports.cmd.extractLsb' 8 2 ≠ 0b00) ∧
    ((cmd State.reset 0xC00).ports.cmd.extractLsb' 10 2 = 0b11 ∧
      (cmd State.reset 0x8FF).ports.cmd.extractLsb' 10 2 = 0b10 ∧
      (cmd State.reset 0x8FF).ports.cmd.extractLsb' 8 2 = 0b00 ∧ State.reset.kv = false) :=
  ⟨⟨⟨_, rfl⟩, by decide⟩, ⟨⟨_, rfl⟩, by decide⟩, ⟨⟨_, rfl⟩, by decide⟩, by decide⟩

theorem witness_FaultPriority_nokey :
    ∃ t, step (cmd State.reset 0x8FF) = .next t ∧ (cmd State.reset 0x8FF).ports.rst = false ∧
      (cmd State.reset 0x8FF).st = .idle ∧ t.st = .fault ∧ t.fcause = some .nokey :=
  ⟨_, rfl, by decide, by decide, rfl, rfl⟩

theorem witness_Inv_faulted : Inv (cmd stateH 0x9A5) := by
  refine ⟨by decide, by decide, by decide, by decide, fun _ => ⟨0x282, by decide⟩, by decide⟩

theorem witness_FaultPriority_kept :
    Inv (cmd stateH 0x9A5) ∧ (∃ t, step (cmd stateH 0x9A5) = .next t) ∧
    (cmd stateH 0x9A5).ports.rst = false ∧ (cmd stateH 0x9A5).fcause ≠ none :=
  ⟨witness_Inv_faulted, ⟨_, rfl⟩, by decide, by decide⟩

theorem witness_FaultHoldsUntilReset :
    (cmd stateH 0xC00).st = .fault ∧ (cmd stateH 0xC00).ports.rst = false ∧
    1 ≤ (cmd stateH 0xC00).inputs.length ∧
    ∀ q ∈ (cmd stateH 0xC00).inputs.take 1, q.rst = false := by decide

theorem witness_OnlyResetLeavesFault :
    (∃ t, step (rst stateH 0x682) = .next t ∧ (rst stateH 0x682).st = .fault ∧ t.st ≠ .fault) ∧
    (∃ t, step (cmd stateH 0x8A5) = .next t ∧ (cmd stateH 0x8A5).st = .fault ∧
      (cmd stateH 0x8A5).ports.rst = false) :=
  ⟨⟨_, rfl, by decide, by decide⟩, ⟨_, rfl, by decide, by decide⟩⟩

theorem witness_CorrectHostNeverFaults :
    (cmd State.reset 0x682).st ≠ .fault ∧ (false = true → (cmd State.reset 0x682).kv = true) ∧
    HostCorrect 1 false (cmd State.reset 0x682) :=
  ⟨by decide, by decide, by decide, fun _ _ => trivial⟩

theorem witness_ResetStepFromEveryState : (rst stateD 0xC00).ports.rst = true := by decide

theorem witness_WritersOfEachRegister :
    (∃ t, step (cmd stateC 0x400) = .next t ∧ t.k1 ≠ stateC.k1 ∧ t.k2 ≠ stateC.k2) ∧
    (∃ t, step (cmd stateC 0x8A5) = .next t ∧ t.l ≠ stateC.l ∧ t.r ≠ stateC.r) ∧
    (∃ t, step (cmd stateE 0x000) = .next t ∧ t.dout ≠ stateE.dout ∧ t.dv = true) ∧
    (∃ t, step (cmd stateC 0xC00) = .next t ∧ t.fcause ≠ stateC.fcause) ∧
    (cmd stateC 0x400).ports.rst = false :=
  ⟨⟨_, rfl, by decide, by decide⟩, ⟨_, rfl, by decide, by decide⟩,
    ⟨_, rfl, by decide, by decide⟩, ⟨_, rfl, by decide⟩, by decide⟩

theorem witness_WritersOfEachRegister_st_dv :
    (∃ t, step (cmd stateD 0x400) = .next t ∧ t.st ≠ stateD.st) ∧
    (∃ t, step (cmd stateC 0xC00) = .next t ∧ t.st ≠ stateC.st ∧ stateC.dv = true ∧ t.dv = false) ∧
    (∃ t, step (cmd stateC 0x400) = .next t ∧ t.dv = false) ∧
    (∃ t, step (cmd stateC 0x8A5) = .next t ∧ t.st ≠ stateC.st ∧ t.dv = false) :=
  ⟨⟨_, rfl, by decide⟩, ⟨_, rfl, by decide, by decide, rfl⟩, ⟨_, rfl, rfl⟩, ⟨_, rfl, by decide, rfl⟩⟩

theorem witness_SubkeysStayBetweenLoadkeys :
    Along (fun u => u.ports.rst = false ∧ ¬ (accepts u = true ∧ isLoadkey (offered u) = true)) 1
      encrypting ∧ ∃ t, runFor 1 encrypting = .next t :=
  ⟨⟨by decide, fun _ _ => trivial⟩, ⟨_, rfl⟩⟩

theorem witness_RegisterInvariantIsKept : Inv stateC ∧ ∃ t, step stateC = .next t :=
  ⟨⟨by decide, by decide, by decide, by decide, fun _ => ⟨0x282, by decide⟩, by decide⟩, ⟨_, rfl⟩⟩

theorem witness_DataValidMeansTheLastCiphertext :
    AnswersFor (some 0xA5) stateC ∧ (∃ p, some 0xA5#8 = some p ∧ (stateD.l, stateD.r) = initialHalves p) ∧
    ∃ t, step stateC = .next t :=
  ⟨⟨by decide, by decide⟩, ⟨0xA5, rfl, by decide⟩, ⟨_, rfl⟩⟩

theorem witness_UnspecifiedRegistersNeverMatter :
    SameSpecified State.reset
      { State.reset with k1 := 0xFF, k2 := 0x0F, l := 0b1010, r := 0b0101, dout := 0xCA } := by
  constructor <;> decide

end Sys2Proof.Tests
end

section
/-! PROOFS. The family of 10_state.md, ports: what the status signals and the output ports show
(R29, R32). -/

namespace Sys2Proof.Machine

variable (s : State)

@[simp] theorem State.ready_iff : s.ready = true ↔ s.st = .idle := by
  simp [State.ready]

@[simp] theorem State.busy_iff : s.busy = true ↔ s.st = .round1 ∨ s.st = .round2 := by
  simp [State.busy]

@[simp] theorem State.flt_iff : s.flt = true ↔ s.st = .fault := by
  simp [State.flt]

/-- R29: the three status signals split the four values of `ST` among them. -/
theorem State.count_ready_busy_flt : [s.ready, s.busy, s.flt].count true = 1 := by
  cases hs : s.st <;> simp [State.ready, State.busy, State.flt, hs]

/-- Bit by bit, four flags in a row: the leftmost is bit 3. -/
theorem getLsbD_of_eq_ofBool_append {v : BitVec 4} {a b c d : Bool}
    (hv : v = BitVec.ofBool a ++ BitVec.ofBool b ++ BitVec.ofBool c ++ BitVec.ofBool d) :
    v.getLsbD 3 = a ∧ v.getLsbD 2 = b ∧ v.getLsbD 1 = c ∧ v.getLsbD 0 = d := by
  subst hv
  decide +revert

/-- R32: bit 3 of `status` is FLT, bit 2 DV, bit 1 KV, bit 0 BUSY. -/
theorem State.status_bits :
    s.status.getLsbD 3 = s.flt ∧ s.status.getLsbD 2 = s.dv ∧
      s.status.getLsbD 1 = s.kv ∧ s.status.getLsbD 0 = s.busy :=
  getLsbD_of_eq_ofBool_append rfl

end Sys2Proof.Machine
end

section
/-! PROOFS. The family of 10_state.md, data valid (R27): what each step does to the block last
accepted, and what each register update does to the relation `AnswersFor`. -/

namespace Sys2Proof.Safety

open Sys2Proof.Machine

variable {g : Option Block} {s : State}

/-! The block last accepted, after each kind of step. -/

theorem lastBlock_of_reset (hr : s.ports.rst = true) : lastBlock g s = none := by
  simp [lastBlock, hr]

/-- Outside IDLE no command is accepted (R61). -/
theorem lastBlock_of_not_idle (hr : s.ports.rst = false) (hs : s.st ≠ .idle) :
    lastBlock g s = g := by
  simp [lastBlock, hr, hs]

theorem lastBlock_of_nop {arg : BitVec 10} (hr : s.ports.rst = false) (hd : offered s = .nop arg) :
    lastBlock g s = g := by
  simp [lastBlock, hr, hd]

theorem lastBlock_of_loadkey {key : Key} (hr : s.ports.rst = false) (hs : s.st = .idle)
    (hd : offered s = .loadkey key) : lastBlock g s = none := by
  simp [lastBlock, hr, hs, hd]

theorem lastBlock_of_encrypt {p : Block} (hr : s.ports.rst = false) (hs : s.st = .idle)
    (hd : offered s = .encrypt p) (hk : s.kv = true) : lastBlock g s = some p := by
  simp [lastBlock, hr, hs, hd, hk]

/-- An accepted command that faults, for any of the three causes, leaves no block. -/
theorem lastBlock_of_faulting (hr : s.ports.rst = false) (hs : s.st = .idle)
    (hf : commandObeys s.kv (offered s) = false) : lastBlock g s = none := by
  cases hd : offered s <;> simp_all [lastBlock, commandObeys]

/-! What `AnswersFor` says at each value of `ST`. -/

theorem answersFor_none_iff_of_idle (hs : s.st = .idle) : AnswersFor none s ↔ s.dv = false := by
  simp [AnswersFor, hs]

theorem answersFor_some_iff_of_idle {p : Block} (hs : s.st = .idle) :
    AnswersFor (some p) s ↔ s.dv = true ∧ s.dout = enc s.k1 s.k2 p := by
  simp [AnswersFor, hs]

theorem answersFor_iff_of_round1 (hs : s.st = .round1) :
    AnswersFor g s ↔ s.dv = false ∧ ∃ p, g = some p ∧ (s.l, s.r) = initialHalves p := by
  simp [AnswersFor, hs]

theorem answersFor_iff_of_round2 (hs : s.st = .round2) :
    AnswersFor g s ↔
      s.dv = false ∧ ∃ p, g = some p ∧ (s.l, s.r) = swapRound s.k1 (initialHalves p) := by
  simp [AnswersFor, hs]

theorem answersFor_iff_of_fault (hs : s.st = .fault) :
    AnswersFor g s ↔ s.dv = false ∧ g = none := by
  simp [AnswersFor, hs]

/-- The relation speaks of registers only, and sampling the ports leaves them. -/
@[simp] theorem answersFor_sampled : AnswersFor g s.sampled ↔ AnswersFor g s := Iff.rfl

/-! What `AnswersFor` says after each register update. -/

theorem answersFor_resetStep : AnswersFor none s.resetStep :=
  (answersFor_none_iff_of_idle s.resetStep_st).2 s.resetStep_dv

theorem answersFor_raiseFault (c : FaultCause) : AnswersFor none (s.raiseFault c) :=
  (answersFor_iff_of_fault (s.raiseFault_st c)).2 ⟨s.raiseFault_dv c, rfl⟩

theorem answersFor_loadKey (hs : s.st = .idle) (key : Key) : AnswersFor none (s.loadKey key) :=
  (answersFor_none_iff_of_idle ((s.loadKey_st key).trans hs)).2 (s.loadKey_dv key)

theorem answersFor_startEncryption (p : Block) : AnswersFor (some p) (s.startEncryption p) :=
  (answersFor_iff_of_round1 (s.startEncryption_st p)).2 ⟨s.startEncryption_dv p, p, rfl, rfl⟩

/-- The ROUND1 step turns the halves of `IP(p)` into the post-swap halves (R134). -/
theorem answersFor_round1Step (hs : s.st = .round1) (h : AnswersFor g s) :
    AnswersFor g s.round1Step := by
  obtain ⟨hdv, p, rfl, hlr⟩ := (answersFor_iff_of_round1 hs).1 h
  have hswap : (s.round1Step.l, s.round1Step.r) = swapRound s.k1 (initialHalves p) := by
    rw [← hlr]; rfl
  exact (answersFor_iff_of_round2 s.round1Step_st).2 ⟨hdv, p, rfl, hswap⟩

/-- The ROUND2 step turns the post-swap halves into the ciphertext and shows it (R135). -/
theorem answersFor_round2Step (hs : s.st = .round2) (h : AnswersFor g s) :
    AnswersFor g s.round2Step := by
  obtain ⟨-, p, rfl, hlr⟩ := (answersFor_iff_of_round2 hs).1 h
  have hdout : s.round2Step.dout = enc s.k1 s.k2 p := by
    rw [enc, preOutput, ← hlr]; rfl
  exact (answersFor_some_iff_of_idle s.round2Step_st).2 ⟨s.round2Step_dv, hdout⟩

/-- R27: every step keeps the relation between the state and the block last accepted. -/
theorem answersFor_step {t : State} (h : AnswersFor g s) (hst : step s = .next t) :
    AnswersFor (lastBlock g s) t := by
  cases step_cases hst with
  | reset hr => rw [lastBlock_of_reset hr]; exact answersFor_resetStep
  | hold hr hs => rw [lastBlock_of_not_idle hr (by simp [hs])]; exact answersFor_sampled.2 h
  | round1 hr hs =>
    rw [lastBlock_of_not_idle hr (by simp [hs])]
    exact answersFor_round1Step hs (answersFor_sampled.2 h)
  | round2 hr hs =>
    rw [lastBlock_of_not_idle hr (by simp [hs])]
    exact answersFor_round2Step hs (answersFor_sampled.2 h)
  | nop hr hs arg hd => rw [lastBlock_of_nop hr hd]; exact answersFor_sampled.2 h
  | loadkey hr hs key hd => rw [lastBlock_of_loadkey hr hs hd]; exact answersFor_loadKey hs key
  | encrypt hr hs p hd hk =>
    rw [lastBlock_of_encrypt hr hs hd hk]; exact answersFor_startEncryption p
  | nokey hr hs p hd hk =>
    rw [lastBlock_of_faulting hr hs (by simp [hd, hk, commandObeys])]
    exact answersFor_raiseFault .nokey
  | badlen01 hr hs x hd | badlen10 hr hs x hd | badlen11 hr hs x hd =>
    rw [lastBlock_of_faulting hr hs (by simp [hd, commandObeys])]
    exact answersFor_raiseFault .badlen
  | badop hr hs x hd =>
    rw [lastBlock_of_faulting hr hs (by simp [hd, commandObeys])]
    exact answersFor_raiseFault .badop

end Sys2Proof.Safety
end

section
/-! PROOFS. The obligations of 10_state.md. -/

namespace Sys2Proof.Proofs

open Sys2Proof.Machine Sys2Proof.Safety

/-- Settles O50, by the cases of a step: each register update leaves the relation as `lastBlock`
says. -/
theorem dataValidMeansTheLastCiphertext : Obligations.DataValidMeansTheLastCiphertext :=
  fun _ _ _ h hst => answersFor_step h hst

/-- Settles O44, from the laws of the status signals and of the bits of `status`. -/
theorem portsShowTheState : Obligations.PortsShowTheState := by
  refine ⟨rfl, rfl, rfl, rfl, fun s => ?_⟩
  obtain ⟨hflt, hdv, hkv, hbusy⟩ := s.status_bits
  exact ⟨s.ready_iff, s.busy_iff, s.flt_iff, s.count_ready_busy_flt, rfl, rfl,
    hflt, hdv, hkv, hbusy, rfl⟩

end Sys2Proof.Proofs
end

section
/-! PROOFS. The family of 20_memory.md, the S-box ROMs (R45, R101, R104): which entry an address,
a row and column, and an input select. -/

namespace Sys2Proof.Machine

/-- `RomRead(T, a)` is entry number `a` of the contents in address order (R45, R104). -/
theorem toList_getElem?_eq_romRead (t : SboxRom) (a : BitVec 4) :
    t.toList[a.toNat]? = some (romRead t a) := by
  rw [List.getElem?_eq_getElem (by simpa using a.isLt), Vector.getElem_toList]
  rfl

/-- The address `row ‖ col` as a number. -/
theorem toNat_row_append_col (row col : BitVec 2) :
    (row ++ col).toNat = 4 * row.toNat + col.toNat := by
  rw [BitVec.toNat_append, ← Nat.shiftLeft_add_eq_or_of_lt col.isLt, Nat.shiftLeft_eq,
    Nat.mul_comm]

/-- R7: the first-written digit counts two. -/
theorem toNat_bin2 (x y : Bool) : (bin2 x y).toNat = 2 * x.toNat + y.toNat := by
  cases x <;> cases y <;> rfl

theorem romRead_row_append_col (t : SboxRom) (row col : BitVec 2) :
    t.toList[4 * row.toNat + col.toNat]? = some (romRead t (row ++ col)) := by
  rw [← toNat_row_append_col]
  exact toList_getElem?_eq_romRead t (row ++ col)

/-- The address `b0 b3 b1 b2` in the bit numbers of the input (R101). -/
theorem sboxRow_append_sboxCol (x : BitVec 4) :
    sboxRow x ++ sboxCol x =
      x.extractLsb' 3 1 ++ x.extractLsb' 0 1 ++ x.extractLsb' 2 1 ++ x.extractLsb' 1 1 := by
  decide +revert

end Sys2Proof.Machine
end

section
/-! PROOFS. The family of 20_memory.md, the order of commands (R48): the word of a command decodes
to it, and the step at each value of `ST`. -/

namespace Sys2Proof.Machine

/-! The fields of an assembled word (R60). -/

@[simp] theorem opField_cmdOf (op : BitVec 2) (arg : BitVec 10) : opField (cmdOf op arg) = op :=
  BitVec.extractLsb'_append_eq_left

@[simp] theorem argField_cmdOf (op : BitVec 2) (arg : BitVec 10) : argField (cmdOf op arg) = arg :=
  BitVec.extractLsb'_append_eq_right

@[simp] theorem overField_cmdOf (op high : BitVec 2) (x : BitVec 8) :
    overField (cmdOf op (high ++ x)) = high :=
  (BitVec.extractLsb'_append_eq_of_add_le (by decide)).trans BitVec.extractLsb'_append_eq_left

@[simp] theorem blockOperand_cmdOf (op high : BitVec 2) (x : BitVec 8) :
    blockOperand (cmdOf op (high ++ x)) = x :=
  (BitVec.extractLsb'_append_eq_of_add_le (by decide)).trans BitVec.extractLsb'_append_eq_right

/-- Each row's word decodes to its command, with every operand bit (R68). -/
theorem decode_encode (i : Instr) : decode (encode i) = i := by
  cases i <;> simp [encode, decode, keyOperand]

variable {s : State}

/-! The step at each value of `ST` but FAULT (R138). -/

theorem step_of_idle (hr : s.ports.rst = false) (hs : s.st = .idle) :
    step s = exec (decode s.ports.cmd) s.sampled := by
  simp [step_eq, clockEdge, hr, hs]

theorem step_of_round1 (hr : s.ports.rst = false) (hs : s.st = .round1) :
    step s = .next s.sampled.round1Step := by
  simp [step_eq, clockEdge, hr, hs]

theorem step_of_round2 (hr : s.ports.rst = false) (hs : s.st = .round2) :
    step s = .next s.sampled.round2Step := by
  simp [step_eq, clockEdge, hr, hs]

end Sys2Proof.Machine
end

section
/-! PROOFS. The family of 20_memory.md, the order of commands (R48): the run of one command to
completion, and from it the run of a list of commands. -/

namespace Sys2Proof.Safety

open Sys2Proof.Machine

variable {s : State} {i : Instr}

/-! What a completed command reads and leaves. -/

/-- The effect of a command does not read the coming inputs and leaves them. -/
theorem completed_withInputs (i : Instr) (s : State) (xs : List InPorts) :
    completed i { s with inputs := xs } = { completed i s with inputs := xs } := by
  cases i with
  | encrypt p => cases hk : s.kv <;> simp [completed, hk, State.raiseFault]
  | _ => rfl

theorem completedAll_withInputs (cmds : List (Instr × List CmdWord)) (s : State)
    (xs : List InPorts) :
    completedAll cmds { s with inputs := xs } = { completedAll cmds s with inputs := xs } := by
  induction cmds generalizing s with
  | nil => rfl
  | cons cmd cmds ih => rw [completedAll, completed_withInputs, ih, completedAll]

/-- A command that does not fault ends ready for the next one. -/
theorem completed_st_of_obeys (hs : s.st = .idle) (ho : commandObeys s.kv i = true) :
    (completed i s).st = .idle := by
  cases i <;> simp_all [completed, commandObeys]

/-- `KV` after a command is what `scheduleFits` carries on to the next. -/
theorem completed_kv (i : Instr) (s : State) : (completed i s).kv = (s.kv || isLoadkey i) := by
  cases i with
  | encrypt p => cases hk : s.kv <;> simp [completed, isLoadkey, hk]
  | _ => simp [completed, isLoadkey]

/-! One command from acceptance to completion (R48, R190). -/

/-- Only an ENCRYPT with a key takes more than its accepting step. -/
theorem stepsAfterAccept_cases (kv : Bool) (i : Instr) :
    stepsAfterAccept kv i = 0 ∨
      ∃ p, i = .encrypt p ∧ kv = true ∧ stepsAfterAccept kv i = 2 := by
  cases i with
  | encrypt p => cases kv <;> simp [stepsAfterAccept, Config.encryptSteps]
  | _ => exact .inl rfl

/-- A command of one step is complete once it is executed. -/
theorem exec_eq_completed (hs : s.st = .idle) (hn : stepsAfterAccept s.kv i = 0) :
    exec i s = .next (completed i s) := by
  have hi (f) := whenIdle_of_idle f hs
  cases i with
  | nop arg => rfl
  | encrypt p =>
    have hk : s.kv = false := by simpa [stepsAfterAccept, Config.encryptSteps] using hn
    simp [exec, execEncrypt, hi, State.acceptEncrypt, completed, hk]
  | _ => exact congrArg _ (hi _)

/-- An ENCRYPT's accept step with a key (R133). -/
theorem exec_encrypt_of_key (hs : s.st = .idle) (hk : s.kv = true) (p : Block) :
    exec (.encrypt p) s = .next (s.startEncryption p) := by
  simp [exec, execEncrypt, whenIdle_of_idle _ hs, State.acceptEncrypt, hk]

/-- The two rounds after it complete the ENCRYPT (R139). -/
theorem rounds_of_startEncryption (hs : s.st = .idle) (hk : s.kv = true) (p : Block) :
    (s.startEncryption p).round1Step.round2Step = completed (.encrypt p) s := by
  rw [completed, if_pos hk, hs]
  rfl

/-- With `rst` = 0 and the word of a command on `cmd`, the step in IDLE executes that command. -/
theorem step_of_driving_encode {rest : List InPorts} (hs : s.st = .idle)
    (hin : s.inputs = driving (encode i) :: rest) : step s = exec i s.sampled := by
  have hp := ports_of_cons hin
  rw [step_of_idle (by rw [hp]; rfl) hs, hp]
  exact congrArg (exec · _) (decode_encode i)

theorem runFor_oneStepCommand {rest : List InPorts} (hs : s.st = .idle)
    (hn : stepsAfterAccept s.kv i = 0) (hin : s.inputs = driving (encode i) :: rest) :
    runFor 1 s = .next { completed i s with inputs := rest } := by
  have haccept : step s = .next (completed i s.sampled) :=
    (step_of_driving_encode hs hin).trans (exec_eq_completed hs hn)
  have hdrop : s.sampled = { s with inputs := rest } := by rw [State.sampled, hin, List.tail_cons]
  rw [runFor_succ haccept, runFor_zero, hdrop, completed_withInputs]

theorem runFor_encrypt {p : Block} {w1 w2 : CmdWord} {rest : List InPorts} (hs : s.st = .idle)
    (hk : s.kv = true)
    (hin : s.inputs = driving (encode (.encrypt p)) :: driving w1 :: driving w2 :: rest) :
    runFor 3 s = .next { completed (.encrypt p) s with inputs := rest } := by
  have haccept : step s = .next (s.sampled.startEncryption p) :=
    (step_of_driving_encode hs hin).trans (exec_encrypt_of_key (s := s.sampled) hs hk p)
  have hround1 : step (s.sampled.startEncryption p) =
      .next (s.sampled.startEncryption p).sampled.round1Step :=
    step_of_round1 (by simp [State.ports, hin, driving]) rfl
  have hround2 : step (s.sampled.startEncryption p).sampled.round1Step =
      .next (s.sampled.startEncryption p).sampled.round1Step.sampled.round2Step :=
    step_of_round2 (by simp [State.ports, hin, driving]) rfl
  have hdrop : s.sampled.sampled.sampled = { s with inputs := rest } := by
    simp [State.sampled, hin]
  have hcompleted : completed (.encrypt p) s.sampled.sampled.sampled =
      { completed (.encrypt p) s with inputs := rest } := by rw [hdrop, completed_withInputs]
  rw [runFor_succ haccept, runFor_succ hround1, runFor_succ hround2, runFor_zero]
  exact congrArg _ ((rounds_of_startEncryption (s := s.sampled.sampled.sampled) hs hk p).trans
    hcompleted)

/-- R48 for one command: the run through its own steps ends in its effect, whatever stands on `cmd`
after the accepting step. -/
theorem runFor_command {ws : List CmdWord} {rest : List InPorts} (hs : s.st = .idle)
    (hlen : ws.length = stepsAfterAccept s.kv i)
    (hin : s.inputs = driving (encode i) :: ws.map driving ++ rest) :
    runFor (ws.length + 1) s = .next { completed i s with inputs := rest } := by
  rcases stepsAfterAccept_cases s.kv i with hn | ⟨p, rfl, hk, hn⟩
  · obtain rfl : ws = [] := List.eq_nil_of_length_eq_zero (hlen.trans hn)
    exact runFor_oneStepCommand hs hn hin
  · obtain ⟨w1, w2, rfl⟩ := List.length_eq_two.1 (hlen.trans hn)
    exact runFor_encrypt hs hk hin

/-! The whole list of commands (R48). -/

theorem scheduleFits_cons {kv : Bool} {ws : List CmdWord} {cmds : List (Instr × List CmdWord)} :
    scheduleFits kv ((i, ws) :: cmds) = true ↔
      ws.length = stepsAfterAccept kv i ∧ (commandObeys kv i = true ∨ cmds = []) ∧
        scheduleFits (kv || isLoadkey i) cmds = true := by
  simp [scheduleFits, and_assoc]

/-- R48, by induction on the commands: each runs to its effect, which is in IDLE again unless the
command was the last. -/
theorem runFor_schedule (cmds : List (Instr × List CmdWord)) (s : State) (rest : List InPorts)
    (hs : s.st = .idle) (hfits : scheduleFits s.kv cmds = true)
    (hin : s.inputs = schedule cmds ++ rest) :
    runFor (schedule cmds).length s = .next { completedAll cmds s with inputs := rest } := by
  induction cmds generalizing s with
  | nil => rw [← show s.inputs = rest from hin]; rfl
  | cons cmd cmds ih =>
    obtain ⟨i, ws⟩ := cmd
    obtain ⟨hlen, hlast, hfits⟩ := scheduleFits_cons.1 hfits
    rw [schedule, List.append_assoc] at hin
    have hlength : (schedule ((i, ws) :: cmds)).length =
        ws.length + 1 + (schedule cmds).length := by
      simp [schedule, Nat.add_right_comm]
    rw [hlength, runFor_add _ (runFor_command hs hlen hin)]
    rcases hlast with ho | rfl
    · rw [← completed_kv] at hfits
      have hrest := ih { completed i s with inputs := schedule cmds ++ rest }
        (completed_st_of_obeys hs ho) hfits rfl
      rwa [completedAll_withInputs] at hrest
    · rfl

end Sys2Proof.Safety
end

section
/-! PROOFS. The obligations of 20_memory.md. -/

namespace Sys2Proof.Proofs

open Sys2Proof.Machine Sys2Proof.Safety

/-- Settles O34, by induction on the list of commands. -/
theorem commandsApplyOneAfterAnother : Obligations.CommandsApplyOneAfterAnother :=
  runFor_schedule

/-- Settles O8: a lookup is a read at the address `row ‖ col`, whose number is `4*row + col`. -/
theorem sboxLookupReadsRowAndColumn : Obligations.SboxLookupReadsRowAndColumn := by
  refine ⟨rfl, rfl, romRead_row_append_col, fun t x => ⟨?_, ?_⟩, rfl⟩
  · have h := romRead_row_append_col t (sboxRow x) (sboxCol x)
    rwa [sboxRow, sboxCol, toNat_bin2, toNat_bin2] at h
  · exact congrArg (romRead t) (sboxRow_append_sboxCol x)

end Sys2Proof.Proofs
end

section
/-! PROOFS. The family of 30_encoding.md, the fields of a word (R60, R62): a word is its fields put
together, and the opcode table's masks keep fields. -/

namespace Sys2Proof.Machine

/-! A word is its fields put together (R60). -/

theorem cmdOf_opField_argField (w : CmdWord) : cmdOf (opField w) (argField w) = w :=
  (BitVec.extractLsb'_append_extractLsb'_eq_extractLsb' rfl).trans BitVec.extractLsb'_eq_self

theorem overField_append_blockOperand (w : CmdWord) : overField w ++ blockOperand w = argField w :=
  BitVec.extractLsb'_append_extractLsb'_eq_extractLsb' rfl

variable {w : CmdWord} {op high : BitVec 2}

theorem eq_cmdOf_argField_iff : w = cmdOf op (argField w) ↔ opField w = op where
  mp h := by rw [h, opField_cmdOf]
  mpr h := by rw [← h, cmdOf_opField_argField]

theorem eq_cmdOf_blockOperand_iff :
    w = cmdOf op (high ++ blockOperand w) ↔ opField w = op ∧ overField w = high where
  mp h := ⟨by rw [h, opField_cmdOf], by rw [h, overField_cmdOf]⟩
  mpr h := by rw [← h.1, ← h.2, overField_append_blockOperand, cmdOf_opField_argField]

/-! What the masks of the opcode table select (R62). -/

theorem and_opMask_eq_iff : w &&& 0xC00#12 = cmdOf op 0#10 ↔ opField w = op := by
  rw [← cmdOf_opField_argField w, Laws.RowMatch.mask_op, opField_cmdOf]
  exact ⟨fun h => by simpa using congrArg opField h, fun h => by rw [h]⟩

theorem and_highMask_eq_iff :
    w &&& 0xF00#12 = cmdOf op (high ++ 0#8) ↔ opField w = op ∧ overField w = high := by
  rw [← cmdOf_opField_argField w, ← overField_append_blockOperand, Laws.RowMatch.mask_high,
    opField_cmdOf, overField_cmdOf]
  exact ⟨fun h => ⟨by simpa using congrArg opField h, by simpa using congrArg overField h⟩,
    fun ⟨hop, hhigh⟩ => by rw [hop, hhigh]⟩

end Sys2Proof.Machine
end

section
/-! PROOFS. The family of 30_encoding.md, decode and the rows of the opcode table (R62, R68): decode
and encode are inverse to each other, and a row is selected exactly by the words that decode to
it. -/

namespace Sys2Proof.Machine

variable {w : CmdWord}

/-! Decode by the values of the fields, row by row (R68). -/

theorem decode_eq_nop (hop : opField w = 0b00#2) : decode w = .nop (argField w) := by
  simp [decode, hop]

theorem decode_eq_loadkey (hop : opField w = 0b01#2) : decode w = .loadkey (argField w) := by
  simp [decode, keyOperand, hop]

theorem decode_eq_encrypt (hop : opField w = 0b10#2) (hhigh : overField w = 0b00#2) :
    decode w = .encrypt (blockOperand w) := by
  simp [decode, hop, hhigh]

theorem decode_eq_reservedBadlen01 (hop : opField w = 0b10#2) (hhigh : overField w = 0b01#2) :
    decode w = .reservedBadlen01 (blockOperand w) := by
  simp [decode, hop, hhigh]

theorem decode_eq_reservedBadlen10 (hop : opField w = 0b10#2) (hhigh : overField w = 0b10#2) :
    decode w = .reservedBadlen10 (blockOperand w) := by
  simp [decode, hop, hhigh]

theorem decode_eq_reservedBadlen11 (hop : opField w = 0b10#2) (hhigh : overField w = 0b11#2) :
    decode w = .reservedBadlen11 (blockOperand w) := by
  simp [decode, hop, hhigh]

theorem decode_eq_reservedBadop (hop : opField w = 0b11#2) :
    decode w = .reservedBadop (argField w) := by
  simp [decode, hop]

/-! Decode and encode are inverse to each other. -/

/-- A two-bit field has one of four values. -/
theorem twoBits_cases (b : BitVec 2) : b = 0b00#2 ∨ b = 0b01#2 ∨ b = 0b10#2 ∨ b = 0b11#2 := by
  decide +revert

/-- Every word is the word of a command (R69), by the values of `op` and `cmd[9:8]`. -/
theorem exists_encode_eq (w : CmdWord) : ∃ i, w = encode i := by
  rcases twoBits_cases (opField w) with hop | hop | hop | hop
  · exact ⟨.nop _, eq_cmdOf_argField_iff.2 hop⟩
  · exact ⟨.loadkey _, eq_cmdOf_argField_iff.2 hop⟩
  · rcases twoBits_cases (overField w) with hhigh | hhigh | hhigh | hhigh
    · exact ⟨.encrypt _, eq_cmdOf_blockOperand_iff.2 ⟨hop, hhigh⟩⟩
    · exact ⟨.reservedBadlen01 _, eq_cmdOf_blockOperand_iff.2 ⟨hop, hhigh⟩⟩
    · exact ⟨.reservedBadlen10 _, eq_cmdOf_blockOperand_iff.2 ⟨hop, hhigh⟩⟩
    · exact ⟨.reservedBadlen11 _, eq_cmdOf_blockOperand_iff.2 ⟨hop, hhigh⟩⟩
  · exact ⟨.reservedBadop _, eq_cmdOf_argField_iff.2 hop⟩

theorem encode_decode (w : CmdWord) : encode (decode w) = w := by
  obtain ⟨i, rfl⟩ := exists_encode_eq w
  rw [decode_encode]

theorem decode_eq_iff_eq_encode {i : Instr} : decode w = i ↔ w = encode i where
  mp h := by rw [← h, encode_decode]
  mpr h := by rw [h, decode_encode]

/-! The rows that the masks select (R62). -/

/-- The command of the row of `i` with the operand that `w` has in its low bits. -/
def rowCommand : Instr → CmdWord → Instr
  | .nop _, w => .nop (argField w)
  | .loadkey _, w => .loadkey (argField w)
  | .encrypt _, w => .encrypt (blockOperand w)
  | .reservedBadlen01 _, w => .reservedBadlen01 (blockOperand w)
  | .reservedBadlen10 _, w => .reservedBadlen10 (blockOperand w)
  | .reservedBadlen11 _, w => .reservedBadlen11 (blockOperand w)
  | .reservedBadop _, w => .reservedBadop (argField w)

@[simp] theorem rowMatch_rowCommand (i : Instr) (w : CmdWord) :
    rowMatch (rowCommand i w) = rowMatch i := by
  cases i <;> rfl

@[simp] theorem rowMask_rowCommand (i : Instr) (w : CmdWord) :
    rowMask (rowCommand i w) = rowMask i := by
  cases i <;> rfl

/-- R62: a word selects a row exactly when it decodes to the command of that row. -/
theorem and_rowMask_eq_rowMatch_iff (w : CmdWord) (i : Instr) :
    w &&& rowMask i = rowMatch i ↔ decode w = rowCommand i w := by
  have hop (op : BitVec 2) : w &&& 0xC00#12 = cmdOf op 0#10 ↔ w = cmdOf op (argField w) :=
    and_opMask_eq_iff.trans eq_cmdOf_argField_iff.symm
  have hhigh (high : BitVec 2) : w &&& 0xF00#12 = cmdOf 0b10#2 (high ++ 0#8) ↔
      w = cmdOf 0b10#2 (high ++ blockOperand w) :=
    and_highMask_eq_iff.trans eq_cmdOf_blockOperand_iff.symm
  rw [decode_eq_iff_eq_encode]
  cases i with
  | nop => exact hop 0b00#2
  | loadkey => exact hop 0b01#2
  | encrypt => exact hhigh 0b00#2
  | reservedBadlen01 => exact hhigh 0b01#2
  | reservedBadlen10 => exact hhigh 0b10#2
  | reservedBadlen11 => exact hhigh 0b11#2
  | reservedBadop => exact hop 0b11#2

theorem rowCommand_encode (i : Instr) : rowCommand i (encode i) = i := by
  cases i <;> simp [rowCommand, encode]

theorem rowCommand_decode (w : CmdWord) : rowCommand (decode w) w = decode w := by
  obtain ⟨i, rfl⟩ := exists_encode_eq w
  rw [decode_encode, rowCommand_encode]

/-- The table's own mask and match select the row of the decoded command and no other. -/
theorem and_rowMask_eq_rowMatch_iff_sameRow (w : CmdWord) (i : Instr) :
    w &&& rowMask i = rowMatch i ↔
      rowMatch i = rowMatch (decode w) ∧ rowMask i = rowMask (decode w) where
  mp h := by simp [(and_rowMask_eq_rowMatch_iff w i).1 h]
  mpr h := by rw [h.1, h.2, and_rowMask_eq_rowMatch_iff, rowCommand_decode]

end Sys2Proof.Machine
end

section
/-! PROOFS. The family of 30_encoding.md, the sizes of the rows (R62): the words of a row are the
numbers that start with its field values. -/

namespace Sys2Proof.Machine

variable {w : CmdWord} {op high : BitVec 2}

theorem opField_eq_iff_toNat : opField w = op ↔ w.toNat / 1024 = op.toNat := by
  rw [← BitVec.toNat_inj, opField, BitVec.extractLsb'_toNat, Nat.shiftRight_eq_div_pow]
  omega

theorem opField_overField_eq_iff_toNat :
    opField w = op ∧ overField w = high ↔ w.toNat / 256 = 4 * op.toNat + high.toNat := by
  rw [opField_eq_iff_toNat, ← BitVec.toNat_inj, overField, BitVec.extractLsb'_toNat,
    Nat.shiftRight_eq_div_pow]
  omega

/-- Among numbers below an `n` that reaches past them all, the quotient by `k` is `c` for exactly
`k` of them. -/
theorem countP_range_of_div_eq {n k c : Nat} {p : Nat → Bool} (hk : 0 < k) (hn : (c + 1) * k ≤ n)
    (hp : ∀ x < n, p x = true ↔ x / k = c) : (List.range n).countP p = k := by
  have hinterval : (Finset.range n).filter (· / k = c) = Finset.Ico (c * k) ((c + 1) * k) := by
    ext x
    rw [Nat.succ_mul] at hn ⊢
    simp only [Finset.mem_filter, Finset.mem_range, Finset.mem_Ico, Nat.div_eq_iff hk]
    omega
  calc (List.range n).countP p
      = Nat.count (· / k = c) n :=
        List.countP_congr fun x hx => by simpa using hp x (List.mem_range.1 hx)
    _ = (Finset.Ico (c * k) ((c + 1) * k)).card := by
        rw [Nat.count_eq_card_filter_range, hinterval]
    _ = k := by rw [Nat.card_Ico, ← Nat.sub_mul, Nat.add_sub_cancel_left, Nat.one_mul]

/-- How many words the table's mask and match select for the row of `i`. -/
def rowCount (i : Instr) : Nat :=
  (List.range 4096).countP (fun x => BitVec.ofNat 12 x &&& rowMask i == rowMatch i)

/-- How many values the operand of a command's row has. -/
def operandCount : Instr → Nat
  | .nop _ => 1024
  | .loadkey _ => 1024
  | .encrypt _ => 256
  | .reservedBadlen01 _ => 256
  | .reservedBadlen10 _ => 256
  | .reservedBadlen11 _ => 256
  | .reservedBadop _ => 1024

theorem countP_and_opMask (op : BitVec 2) :
    (List.range 4096).countP (fun x => BitVec.ofNat 12 x &&& 0xC00#12 == cmdOf op 0#10) = 1024 := by
  apply countP_range_of_div_eq (c := op.toNat) (by decide) (by omega)
  intro x hx
  rw [beq_iff_eq, and_opMask_eq_iff, opField_eq_iff_toNat, BitVec.toNat_ofNat]
  omega

theorem countP_and_highMask (op high : BitVec 2) :
    (List.range 4096).countP
      (fun x => BitVec.ofNat 12 x &&& 0xF00#12 == cmdOf op (high ++ 0#8)) = 256 := by
  apply countP_range_of_div_eq (c := 4 * op.toNat + high.toNat) (by decide) (by omega)
  intro x hx
  rw [beq_iff_eq, and_highMask_eq_iff, opField_overField_eq_iff_toNat, BitVec.toNat_ofNat]
  omega

/-- Every row holds as many words as its operand has values. -/
theorem rowCount_eq_operandCount (i : Instr) : rowCount i = operandCount i := by
  cases i with
  | nop => exact countP_and_opMask 0b00#2
  | loadkey => exact countP_and_opMask 0b01#2
  | encrypt => exact countP_and_highMask 0b10#2 0b00#2
  | reservedBadlen01 => exact countP_and_highMask 0b10#2 0b01#2
  | reservedBadlen10 => exact countP_and_highMask 0b10#2 0b10#2
  | reservedBadlen11 => exact countP_and_highMask 0b10#2 0b11#2
  | reservedBadop => exact countP_and_opMask 0b11#2

/-- One command of each row, in the order of the opcode table. -/
def rowCommands : List Instr :=
  [.nop 0, .loadkey 0, .encrypt 0, .reservedBadlen01 0, .reservedBadlen10 0, .reservedBadlen11 0,
    .reservedBadop 0]

end Sys2Proof.Machine
end

section
/-! PROOFS. The family of 30_encoding.md, the operand bits (R64, R65), and which word a step runs
(R61). -/

namespace Sys2Proof.Machine

/-- The key of a LOADKEY stands on `cmd[9:0]`, sequence index 0 on `cmd[9]` (R64). -/
theorem seqBit_argField (w : CmdWord) (i : Fin 10) :
    seqBit (argField w) i = w.getLsbD (9 - i.val) := by
  simp [seqBit, argField, show 9 - i.val < 10 by omega]

/-- The block of an ENCRYPT stands on `cmd[7:0]`, sequence index 0 on `cmd[7]` (R65). -/
theorem seqBit_blockOperand (w : CmdWord) (i : Fin 8) :
    seqBit (blockOperand w) i = w.getLsbD (7 - i.val) := by
  simp [seqBit, blockOperand, show 7 - i.val < 8 by omega]

/-- At `rst` = 1 and outside IDLE the word on `cmd` is not looked at (R61). -/
theorem clockEdge_cmd_irrelevant {s : State} {rst : Bool} (h : rst = true ∨ s.st ≠ .idle)
    (w w' : CmdWord) : clockEdge ⟨rst, w⟩ s = clockEdge ⟨rst, w'⟩ s := by
  cases rst with
  | true => rfl
  | false =>
    cases hs : s.st with
    | idle => simp [hs] at h
    | _ => simp [clockEdge, hs]

end Sys2Proof.Machine
end

section
/-! PROOFS. The family of 30_encoding.md, the reserved encodings (R66, R67). -/

namespace Sys2Proof.Machine

open Sys2Proof.Safety

variable {s : State} {w : CmdWord}

/-- In IDLE every word with `op` = 11 enters the fault state with BADOP (R66). -/
theorem exec_decode_of_badop (hs : s.st = .idle) (hop : opField w = 0b11#2) :
    exec (decode w) s = .next (s.raiseFault .badop) := by
  rw [decode_eq_reservedBadop hop]
  exact exec_eq_completed hs rfl

/-- In IDLE every word with `op` = 10 and `cmd[9:8]` not 00 enters it with BADLEN (R67). -/
theorem exec_decode_of_badlen (hs : s.st = .idle) (hop : opField w = 0b10#2)
    (hhigh : overField w ≠ 0b00#2) : exec (decode w) s = .next (s.raiseFault .badlen) := by
  rcases twoBits_cases (overField w) with h | h | h | h
  · exact absurd h hhigh
  · rw [decode_eq_reservedBadlen01 hop h]; exact exec_eq_completed hs rfl
  · rw [decode_eq_reservedBadlen10 hop h]; exact exec_eq_completed hs rfl
  · rw [decode_eq_reservedBadlen11 hop h]; exact exec_eq_completed hs rfl

end Sys2Proof.Machine
end

section
/-! PROOFS. The obligations of 30_encoding.md. -/

namespace Sys2Proof.Proofs

open Sys2Proof.Machine Sys2Proof.Safety

/-- Settles O17: the masks keep the fields that decode looks at, and a row's words are an interval
of numbers. -/
theorem rowsPartitionTheWords : Obligations.RowsPartitionTheWords := by
  refine ⟨fun w => ?_, and_rowMask_eq_rowMatch_iff_sameRow, ?_⟩
  · have hrow := and_rowMask_eq_rowMatch_iff w
    exact ⟨hrow (.nop 0), hrow (.loadkey 0), hrow (.encrypt 0), hrow (.reservedBadlen01 0),
      hrow (.reservedBadlen10 0), hrow (.reservedBadlen11 0), hrow (.reservedBadop 0)⟩
  · have hcounts : rowCommands.map rowCount = rowCommands.map operandCount :=
      List.map_congr_left fun i _ => rowCount_eq_operandCount i
    exact hcounts

/-- Settles O18, row by row from the equations of decode. -/
theorem decodeFollowsTheFields : Obligations.DecodeFollowsTheFields := fun _ =>
  ⟨decode_eq_nop, decode_eq_loadkey, decode_eq_encrypt, decode_eq_reservedBadlen01,
    decode_eq_reservedBadlen10, decode_eq_reservedBadlen11, decode_eq_reservedBadop⟩

/-- Settles O19: a word that decodes to a command is the command's word, and its operand is the low
field. -/
theorem operandsLieOnTheirCommandBits : Obligations.OperandsLieOnTheirCommandBits := by
  refine ⟨fun w key h i => ?_, fun w p h => ?_, rfl, rfl, rfl, rfl⟩
  · have hw : w = cmdOf 0b01#2 key := decode_eq_iff_eq_encode.1 h
    rw [← seqBit_argField, hw, argField_cmdOf]
  · have hw : w = cmdOf 0b10#2 (0b00#2 ++ p) := decode_eq_iff_eq_encode.1 h
    refine ⟨?_, fun i => ?_⟩
    · rw [hw]; exact overField_cmdOf _ _ _
    · rw [← seqBit_blockOperand, hw, blockOperand_cmdOf]

/-- Settles O21: the mask keeps `op`, and NOP hands on the state it gets. -/
theorem nopChangesNothing : Obligations.NopChangesNothing :=
  ⟨fun _ h => decode_eq_nop (and_opMask_eq_iff.1 h), fun _ _ => rfl⟩

/-- Settles O26, from the step in IDLE and from a clock edge that does not look at `cmd`. -/
theorem stepRunsTheAcceptedCommand : Obligations.StepRunsTheAcceptedCommand :=
  ⟨fun _ => step_of_idle, fun s _ w w' rest h =>
    clockEdge_cmd_irrelevant (s := { s with inputs := rest }) h w w'⟩

/-- Settles O53: the accepted word is executed, and a reserved one raises its fault. -/
theorem acceptedReservedWordsFault : Obligations.AcceptedReservedWordsFault := by
  refine fun s hr hs => ⟨fun hop => ?_, fun hop hhigh => ?_⟩
  · exact (step_of_idle hr hs).trans (exec_decode_of_badop (s := s.sampled) hs hop)
  · exact (step_of_idle hr hs).trans (exec_decode_of_badlen (s := s.sampled) hs hop hhigh)

end Sys2Proof.Proofs
end

section
/-! PROOFS. The family of 40_bit_primitives.md, the primitives: which element of its operands each
element of a result is (R80, R81, R82, R91), and what follows from that. -/

namespace Sys2Proof.Machine

/-- Sequence index 0 stands on the most significant bit (R6). -/
theorem seqBit_eq_getMsbD {n : Nat} (v : BitVec n) (i : Fin n) : seqBit v i = v.getMsbD i.val := by
  simp [seqBit, BitVec.getMsbD]

/-! `permute` (R80). -/

theorem seqBit_cons_zero {n : Nat} (b : Bool) (v : BitVec n) : seqBit (BitVec.cons b v) 0 = b := by
  simp [seqBit, BitVec.getElem_cons]

theorem seqBit_cons_succ {n : Nat} (b : Bool) (v : BitVec n) (i : Fin n) :
    seqBit (BitVec.cons b v) i.succ = seqBit v i := by
  have hbit : n + 1 - 1 - i.succ.val = n - 1 - i.val := by rw [Fin.val_succ]; omega
  have hne : n - 1 - i.val ≠ n := by omega
  rw [seqBit, seqBit, hbit, BitVec.getLsbD_cons, if_neg hne]

theorem seqBit_permute {n : Nat} (s : BitVec n) (table : List (Fin n)) (i : Fin table.length) :
    seqBit (permute s table) i = seqBit s (table.get i) := by
  induction table with
  | nil => exact i.elim0
  | cons t ts ih =>
    cases i using Fin.cases with
    | zero => exact seqBit_cons_zero _ _
    | succ j => exact (seqBit_cons_succ _ _ j).trans (ih j)

/-- The sequence that `permute` answers is the table with each index replaced by its element. -/
theorem map_seqBit_permute {n : Nat} (s : BitVec n) (table : List (Fin n)) :
    (List.finRange table.length).map (seqBit (permute s table)) = table.map (seqBit s) := by
  calc (List.finRange table.length).map (seqBit (permute s table))
      = (List.finRange table.length).map (seqBit s ∘ table.get) :=
        List.map_congr_left fun i _ => seqBit_permute s table i
    _ = table.map (seqBit s) := by rw [← List.map_map, List.map_get_finRange]

/-- The wiring by bit number: sequence index `i` of `n` is bit `n - 1 - i` (R6). -/
theorem map_getLsbD_permute {n : Nat} (s : BitVec n) (table : List (Fin n)) :
    ((List.finRange table.length).map fun i => table.length - 1 - i.val).map
        (permute s table).getLsbD =
      (table.map fun t => n - 1 - t.val).map s.getLsbD := by
  rw [List.map_map, List.map_map]
  exact map_seqBit_permute s table

/-- Two sequences whose lengths are equal by proof, with the same elements, are the same number. -/
theorem toNat_eq_of_seqBit_eq {m n : Nat} (hmn : m = n) {a : BitVec m} {b : BitVec n}
    (h : ∀ i, seqBit a i = seqBit b (i.cast hmn)) : a.toNat = b.toNat := by
  subst hmn
  rw [eq_of_seqBit_eq h]

theorem toNat_permute_finRange {n : Nat} (s : BitVec n) :
    (permute s (List.finRange n)).toNat = s.toNat :=
  toNat_eq_of_seqBit_eq List.length_finRange fun i => by simp [seqBit_permute]

/-- A table that names every source position loses no element. -/
theorem permute_injective {n : Nat} {table : List (Fin n)} (h : ∀ i, i ∈ table) :
    Function.Injective (permute · table) := by
  intro a b hab
  refine eq_of_seqBit_eq fun i => ?_
  obtain ⟨j, rfl⟩ := List.get_of_mem (h i)
  rw [← seqBit_permute, ← seqBit_permute]
  exact congrArg (seqBit · j) hab

/-! `rotl` (R81). -/

theorem seqBit_rotl {m : Nat} (s : BitVec m) (n i : Fin m) :
    seqBit (rotl s n) i = seqBit s (i + n) := by
  rw [seqBit_eq_getMsbD, seqBit_eq_getMsbD, rotl, BitVec.getMsbD_rotateLeft, Fin.val_add]
  simp [Nat.add_comm]

/-- The vector form: the first `n` elements wrap to the end. -/
theorem rotl_eq_append {k n : Nat} (v : BitVec (k + n)) (hn : n < k + n) :
    rotl v ⟨n, hn⟩ = v.extractLsb' 0 k ++ v.extractLsb' k n := by
  refine eq_of_seqBit_eq fun i => ?_
  rw [seqBit_rotl, seqBit, seqBit, BitVec.getLsbD_append, BitVec.getLsbD_extractLsb',
    BitVec.getLsbD_extractLsb', Fin.val_add]
  by_cases hi : i.val < k
  · have hmod : (i.val + n) % (k + n) = i.val + n := Nat.mod_eq_of_lt (by omega)
    have hbit : k + n - 1 - (i.val + n) = 0 + (k + n - 1 - i.val - n) := by omega
    have hlt : k + n - 1 - i.val - n < k := by omega
    rw [if_neg (by omega), hmod, hbit, decide_eq_true hlt, Bool.true_and]
  · have hmod : (i.val + n) % (k + n) = i.val - k := by
      rw [Nat.mod_eq_sub_mod, Nat.mod_eq_of_lt] <;> omega
    have hbit : k + n - 1 - (i.val - k) = k + (k + n - 1 - i.val) := by omega
    have hlt : k + n - 1 - i.val < n := by omega
    rw [if_pos hlt, hmod, hbit, decide_eq_true hlt, Bool.true_and]

theorem rotl_zero {m : Nat} (s : BitVec (m + 1)) : rotl s 0 = s :=
  eq_of_seqBit_eq fun i => by rw [seqBit_rotl, Fin.add_zero]

/-- Rotations compose, their amounts added modulo the length. -/
theorem rotl_rotl {m : Nat} (s : BitVec m) (n k : Fin m) : rotl (rotl s n) k = rotl s (n + k) := by
  refine eq_of_seqBit_eq fun i => ?_
  have : NeZero m := ⟨i.pos.ne'⟩
  rw [seqBit_rotl, seqBit_rotl, seqBit_rotl, add_assoc, add_comm k n]

theorem rotl_zeros {m : Nat} (n : Fin m) : rotl (0#m) n = 0#m :=
  eq_of_seqBit_eq fun i => by rw [seqBit_rotl]; simp [seqBit]

theorem rotl_allOnes {m : Nat} (n : Fin m) : rotl (BitVec.allOnes m) n = BitVec.allOnes m :=
  eq_of_seqBit_eq fun i => by rw [seqBit_rotl]; simp [seqBit_eq_getMsbD]

/-! `xor` (R82). -/

theorem seqBit_seqXor {m : Nat} (a b : BitVec m) (i : Fin m) :
    seqBit (seqXor a b) i = (seqBit a i ^^ seqBit b i) :=
  BitVec.getLsbD_xor

/-! `split` and `join` (R91). -/

theorem seqBit_split_fst {h : Nat} (s : BitVec (h + h)) (i : Fin h) :
    seqBit (split s).1 i = seqBit s (i.castAdd h) := by
  have hbit : h + (h - 1 - i.val) = h + h - 1 - i.val := by omega
  have hlt : h - 1 - i.val < h := by omega
  simp [seqBit, split, hbit, hlt]

theorem seqBit_split_snd {h : Nat} (s : BitVec (h + h)) (i : Fin h) :
    seqBit (split s).2 i = seqBit s (i.natAdd h) := by
  have hbit : h + h - 1 - (i.val + h) = h - 1 - i.val := by omega
  have hlt : h - 1 - i.val < h := by omega
  simp [seqBit, split, hbit, hlt]

theorem split_join {h : Nat} (a b : BitVec h) : split (join a b) = (a, b) :=
  Prod.ext BitVec.extractLsb'_append_eq_left BitVec.extractLsb'_append_eq_right

theorem join_split {h : Nat} (s : BitVec (h + h)) : join (split s).1 (split s).2 = s :=
  (BitVec.extractLsb'_append_extractLsb'_eq_extractLsb' (by simp)).trans BitVec.extractLsb'_eq_self

end Sys2Proof.Machine
end

section
/-! PROOFS. The family of 40_bit_primitives.md, the permutation networks (R84 to R90). -/

namespace Sys2Proof.Machine

theorem p10_bijective : Function.Bijective p10 :=
  (permute_injective (table := tableP10) (by decide)).bijective_of_finite

theorem p4_bijective : Function.Bijective p4 :=
  (permute_injective (table := tableP4) (by decide)).bijective_of_finite

theorem seqBit_ip (s : BitVec 8) (i : Fin 8) : seqBit (ip s) i = seqBit s (tableIP.get i) :=
  seqBit_permute s tableIP i

theorem seqBit_fp (s : BitVec 8) (i : Fin 8) : seqBit (fp s) i = seqBit s (tableFP.get i) :=
  seqBit_permute s tableFP i

theorem seqBit_ep (s : BitVec 4) (i : Fin 8) : seqBit (ep s) i = seqBit s (tableEP.get i) :=
  seqBit_permute s tableEP i

/-- R90, the tables as maps of positions. -/
theorem tableIP_tableFP_inverse (i : Fin 8) :
    tableFP.get (tableIP.get i) = i ∧ tableIP.get (tableFP.get i) = i := by
  decide +revert

theorem fp_ip (s : BitVec 8) : fp (ip s) = s :=
  eq_of_seqBit_eq fun i => by rw [seqBit_fp, seqBit_ip, (tableIP_tableFP_inverse i).2]

theorem ip_fp (s : BitVec 8) : ip (fp s) = s :=
  eq_of_seqBit_eq fun i => by rw [seqBit_ip, seqBit_fp, (tableIP_tableFP_inverse i).1]

theorem ip_bijective : Function.Bijective ip :=
  Function.bijective_iff_has_inverse.2 ⟨fp, fp_ip, ip_fp⟩

theorem fp_bijective : Function.Bijective fp :=
  Function.bijective_iff_has_inverse.2 ⟨ip, ip_fp, fp_ip⟩

/-- R88: the left half names the positions of a rotation right by one, that is left by three. -/
theorem split_ep_fst (s : BitVec 4) : (split (h := 4) (ep s)).1 = s.rotateRight 1 := by
  have htable : ∀ i : Fin 4, tableEP.get (i.castAdd 4) = i + 3 := by decide
  refine Eq.trans (b := rotl s 3) (eq_of_seqBit_eq fun i => ?_) ?_
  · rw [seqBit_split_fst, seqBit_ep, seqBit_rotl, ← htable]
  · exact BitVec.or_comm _ _

/-- R88: the right half names the positions of a rotation left by one. -/
theorem split_ep_snd (s : BitVec 4) : (split (h := 4) (ep s)).2 = s.rotateLeft 1 := by
  have htable : ∀ i : Fin 4, tableEP.get (i.natAdd 4) = i + 1 := by decide
  refine eq_of_seqBit_eq fun i => ?_
  rw [seqBit_split_snd, seqBit_ep, htable]
  exact (seqBit_rotl s 1 i).symm

end Sys2Proof.Machine
end

section
/-! PROOFS. The obligations of 40_bit_primitives.md. -/

namespace Sys2Proof.Proofs

open Sys2Proof.Machine

/-- Settles O1, by induction on the table; the identity table leaves every element in place. -/
theorem permuteTakesTheTablesEntries : Obligations.PermuteTakesTheTablesEntries :=
  ⟨fun _ => seqBit_permute, fun _ => toNat_permute_finRange, rfl⟩

/-- Settles O2: each clause compares element `i` with element `i + n` of the input. -/
theorem rotlMovesElementsCyclically : Obligations.RotlMovesElementsCyclically :=
  ⟨fun _ => seqBit_rotl, fun v => rotl_eq_append (k := 4) (n := 1) v (by decide),
    fun v => rotl_eq_append (k := 3) (n := 2) v (by decide), fun _ => rotl_zero,
    fun v => rotl_rotl v 1 2, fun _ n => ⟨rotl_zeros n, rotl_allOnes n⟩, rfl, rfl, rfl, rfl⟩

/-- Settles O4: the halves are bit fields of the vector, and joining puts the fields together. -/
theorem splitAndJoinHalves : Obligations.SplitAndJoinHalves :=
  ⟨fun _ s i => ⟨seqBit_split_fst s i, seqBit_split_snd s i⟩, fun _ => rfl, fun _ => rfl,
    fun _ => split_join, fun _ => join_split⟩

/-- Settles O3, from the elements of `xor` and the library's laws of `^^^`. -/
theorem xorIsElementwise : Obligations.XorIsElementwise := by
  refine ⟨fun m a b i => ?_, fun m a b c => ?_, rfl, rfl⟩
  · rw [seqBit_seqXor]; exact bne_iff_ne
  · exact ⟨BitVec.xor_self, BitVec.xor_zero, BitVec.xor_comm a b, BitVec.xor_assoc a b c⟩

/-- Settles O5: the two tables are the printed ones, and P10's names every position. -/
theorem keyNetworksAreWiredAsPrinted : Obligations.KeyNetworksAreWiredAsPrinted :=
  ⟨fun s => ⟨map_seqBit_permute s tableP10, map_getLsbD_permute s tableP10⟩, p10_bijective, rfl,
    fun s => ⟨map_seqBit_permute s tableP8, map_getLsbD_permute s tableP8⟩, rfl⟩

/-- Settles O6: the tables are the printed ones and inverse as maps of positions, so the networks
are inverse to each other. -/
theorem blockNetworksAreWiredAsPrinted : Obligations.BlockNetworksAreWiredAsPrinted :=
  ⟨fun s => ⟨map_seqBit_permute s tableIP, map_getLsbD_permute s tableIP,
      map_seqBit_permute s tableFP, map_getLsbD_permute s tableFP⟩,
    fun s => ⟨fp_ip s, ip_fp s⟩, tableIP_tableFP_inverse, ip_bijective, fp_bijective,
    rfl, rfl, rfl, rfl⟩

/-- Settles O7: the tables are the printed ones, and EP's halves name rotated positions. -/
theorem roundNetworksAreWiredAsPrinted : Obligations.RoundNetworksAreWiredAsPrinted :=
  ⟨fun s => ⟨map_seqBit_permute s tableEP, map_getLsbD_permute s tableEP,
      Prod.ext (split_ep_fst s) (split_ep_snd s)⟩,
    by decide, rfl, rfl, rfl,
    fun s => ⟨map_seqBit_permute s tableP4, map_getLsbD_permute s tableP4⟩, p4_bijective,
    rfl, rfl, rfl⟩

end Sys2Proof.Proofs
end

section
/-! PROOFS. The family of 41_sbox.md (R102, R103, R105): the codes of a ROM's row, and how often a row
holds a code when all rows but one hold each code once. -/

namespace Sys2Proof.Machine

/-- The four codes of a row of a ROM, columns in order (R102, R103). -/
def rowCodes (t : SboxRom) (row : BitVec 2) : List SboxCode :=
  ([0, 1, 2, 3] : List (BitVec 2)).map fun col => romRead t (row ++ col)

theorem countP_romRead_row (t : SboxRom) (row : BitVec 2) (code : SboxCode) :
    ([0, 1, 2, 3] : List (BitVec 2)).countP (fun col => romRead t (row ++ col) == code) =
      (rowCodes t row).count code :=
  (List.countP_map (p := (· == code))).symm

theorem count_eq_one_of_perm_codes {codes : List SboxCode} (h : codes.Perm [0, 1, 2, 3])
    (code : SboxCode) : codes.count code = 1 := by
  have honce : ∀ c : SboxCode, ([0, 1, 2, 3] : List SboxCode).count c = 1 := by decide
  rw [h.count_eq, honce]

/-- R105: how often a row holds a code, when every row but `odd` holds each code once and `odd` holds
`twice` two times and `absent` never. -/
theorem countP_romRead_row_eq_ite {t : SboxRom} {odd : BitVec 2} {twice absent : SboxCode}
    (hperm : ∀ row ≠ odd, (rowCodes t row).Perm [0, 1, 2, 3])
    (hodd : ∀ code, (rowCodes t odd).count code =
      if code = twice then 2 else if code = absent then 0 else 1) (row code : BitVec 2) :
    ([0, 1, 2, 3] : List (BitVec 2)).countP (fun col => romRead t (row ++ col) == code) =
      if row = odd ∧ code = twice then 2 else if row = odd ∧ code = absent then 0 else 1 := by
  rw [countP_romRead_row]
  by_cases hrow : row = odd
  · simp [hrow, hodd]
  · simp [hrow, count_eq_one_of_perm_codes (hperm row hrow)]

theorem rowCodes_romS0_perm : ∀ row ≠ 3, (rowCodes romS0 row).Perm [0, 1, 2, 3] := by decide

theorem rowCodes_romS1_perm : ∀ row ≠ 2, (rowCodes romS1 row).Perm [0, 1, 2, 3] := by decide

theorem count_rowCodes_romS0_three : ∀ code, (rowCodes romS0 3).count code =
    if code = 0b11 then 2 else if code = 0b00 then 0 else 1 := by decide

theorem count_rowCodes_romS1_two : ∀ code, (rowCodes romS1 2).count code =
    if code = 0b00 then 2 else if code = 0b10 then 0 else 1 := by decide

/-- R105: four bits in and two out, so no contents of the ROM make the S-box injective. -/
theorem sbox_not_injective (t : SboxRom) : ¬ Function.Injective (sbox · t) := by
  intro h
  have hcard : Fintype.card (BitVec 4) ≤ Fintype.card SboxCode := Fintype.card_le_of_injective _ h
  rw [← FinEnum.card_eq_fintypeCard, ← FinEnum.card_eq_fintypeCard] at hcard
  exact absurd hcard (by decide)

end Sys2Proof.Machine
end

section
/-! PROOFS. The obligation of 41_sbox.md. -/

namespace Sys2Proof.Proofs

open Sys2Proof.Machine

/-- Settles O9: the tables and lists are the contents of the ROMs read in order, injectivity fails by
counting, and every row but the named one is a permutation of the four codes. -/
theorem sboxesOnAllInputs : Obligations.SboxesOnAllInputs :=
  ⟨fun _ => ⟨rfl, rfl⟩, rfl, rfl, rfl, rfl, sbox_not_injective romS0, sbox_not_injective romS1,
    rfl, rfl, countP_romRead_row_eq_ite rowCodes_romS0_perm count_rowCodes_romS0_three,
    countP_romRead_row_eq_ite rowCodes_romS1_perm count_rowCodes_romS1_two⟩

end Sys2Proof.Proofs
end

section
/-! PROOFS. The family of 42_round_function.md (R110 to R114): which bits of its operands reach each
S-box, and which S-box outputs the result holds. -/

namespace Sys2Proof.Machine

/-! Sequences and their lists of elements. -/

theorem eq_of_map_seqBit_eq {n : Nat} {a b : BitVec n}
    (h : (List.finRange n).map (seqBit a) = (List.finRange n).map (seqBit b)) : a = b :=
  eq_of_seqBit_eq fun i => List.map_inj_left.1 h i (List.mem_finRange i)

theorem seqBit_join_castAdd {h : Nat} (a b : BitVec h) (i : Fin h) :
    seqBit (join a b) (i.castAdd h) = seqBit a i := by
  rw [← seqBit_split_fst, split_join]

theorem seqBit_join_natAdd {h : Nat} (a b : BitVec h) (i : Fin h) :
    seqBit (join a b) (i.natAdd h) = seqBit b i := by
  rw [← seqBit_split_snd, split_join]

theorem bin2_append_bin2 (a b c d : Bool) : bin2 a b ++ bin2 c d =
    BitVec.ofBool a ++ BitVec.ofBool b ++ BitVec.ofBool c ++ BitVec.ofBool d := by
  decide +revert

/-- R101: on the input `b0 b1 b2 b3` an S-box reads the address `b0 b3 b1 b2`. -/
theorem sbox_eq_romRead_of_map_seqBit {x : BitVec 4} {b0 b1 b2 b3 : Bool}
    (hx : (List.finRange 4).map (seqBit x) = [b0, b1, b2, b3]) (t : SboxRom) :
    sbox x t = romRead t
      (BitVec.ofBool b0 ++ BitVec.ofBool b3 ++ BitVec.ofBool b1 ++ BitVec.ofBool b2) := by
  have hbits : [seqBit x 0, seqBit x 1, seqBit x 2, seqBit x 3] = [b0, b1, b2, b3] := hx
  simp only [List.cons.injEq, and_true] at hbits
  obtain ⟨rfl, rfl, rfl, rfl⟩ := hbits
  exact congrArg (romRead t) (bin2_append_bin2 _ _ _ _)

/-! The mixed bits that each S-box gets (R111 to R113). -/

/-- `xl` in the rule: the input of S-box 0. -/
def leftInput (r : Half) (k : Subkey) : BitVec 4 := (split (h := 4) (seqXor (ep r) k)).1

/-- `xr` in the rule: the input of S-box 1. -/
def rightInput (r : Half) (k : Subkey) : BitVec 4 := (split (h := 4) (seqXor (ep r) k)).2

variable (r : Half) (k : Subkey)

theorem roundF_eq : roundF r k = p4 (join (s0 (leftInput r k)) (s1 (rightInput r k))) := rfl

theorem seqBit_leftInput (i : Fin 4) : seqBit (leftInput r k) i =
    (seqBit r (tableEP.get (i.castAdd 4)) ^^ seqBit k (i.castAdd 4)) := by
  rw [leftInput, seqBit_split_fst, seqBit_seqXor, seqBit_ep]

theorem seqBit_rightInput (i : Fin 4) : seqBit (rightInput r k) i =
    (seqBit r (tableEP.get (i.natAdd 4)) ^^ seqBit k (i.natAdd 4)) := by
  rw [rightInput, seqBit_split_snd, seqBit_seqXor, seqBit_ep]

theorem map_seqBit_leftInput : (List.finRange 4).map (seqBit (leftInput r k)) =
    [seqBit r 3 ^^ seqBit k 0, seqBit r 0 ^^ seqBit k 1,
      seqBit r 1 ^^ seqBit k 2, seqBit r 2 ^^ seqBit k 3] :=
  List.map_congr_left fun i _ => seqBit_leftInput r k i

theorem map_seqBit_rightInput : (List.finRange 4).map (seqBit (rightInput r k)) =
    [seqBit r 1 ^^ seqBit k 4, seqBit r 2 ^^ seqBit k 5,
      seqBit r 3 ^^ seqBit k 6, seqBit r 0 ^^ seqBit k 7] :=
  List.map_congr_left fun i _ => seqBit_rightInput r k i

/-- R114: with S-box outputs `a0 a1` and `c0 c1` the last permutation gives `a1 c1 c0 a0`. -/
theorem map_seqBit_p4_join (a c : SboxCode) : (List.finRange 4).map (seqBit (p4 (join a c))) =
    [seqBit a 1, seqBit c 1, seqBit c 0, seqBit a 0] := by
  rw [← seqBit_join_castAdd a c 0, ← seqBit_join_castAdd a c 1, ← seqBit_join_natAdd a c 0,
    ← seqBit_join_natAdd a c 1]
  exact map_seqBit_permute (join a c) tableP4

end Sys2Proof.Machine
end

section
/-! PROOFS. The family of 42_round_function.md, corner cases (R116): F is not injective in the right
half, because S-box 0 answers 00 for fewer inputs than a bijection needs. -/

namespace Sys2Proof.Machine

theorem roundF_eq_roundF_zero (r : Half) (k : Subkey) :
    roundF r k = roundF 0#4 (seqXor (ep r) k) := by
  have hmix : seqXor (ep 0#4) (seqXor (ep r) k) = seqXor (ep r) k := BitVec.zero_xor
  rw [roundF, roundF, hmix]

/-- Every bit of the right half reaches S-box 0 (R111), and mixing the key in loses none. -/
theorem leftInput_injective (k : Subkey) : Function.Injective (leftInput · k) := by
  have hreach : ∀ j : Fin 4, ∃ i : Fin 4, tableEP.get (i.castAdd 4) = j := by decide
  intro a b hab
  refine eq_of_seqBit_eq fun j => ?_
  obtain ⟨i, rfl⟩ := hreach j
  have hbit : seqBit (leftInput a k) i = seqBit (leftInput b k) i := congrArg (seqBit · i) hab
  rwa [seqBit_leftInput, seqBit_leftInput, Bool.xor_left_inj] at hbit

/-- R105's row of S-box 0 without the code 00 leaves it to three inputs. -/
theorem card_filter_s0_eq_zero : (Finset.univ.filter fun x : BitVec 4 => s0 x = 0).card = 3 := by
  decide

/-- A bijection would give each of the four results `00 ‖ c` a right half of its own, and with it a
further input that S-box 0 answers with 00. -/
theorem roundF_not_injective (k : Subkey) : ¬ Function.Injective (roundF · k) := by
  intro hinj
  have hsurj : Function.Surjective (roundF · k) := Finite.surjective_of_injective hinj
  choose r hr using fun c : SboxCode => hsurj (p4 (join 0#2 c))
  have hcodes (c : SboxCode) :
      (s0 (leftInput (r c) k), s1 (rightInput (r c) k)) = (0#2, c) := by
    rw [← split_join, ← split_join 0#2 c]
    exact congrArg split (p4_bijective.injective (hr c))
  have hle : Fintype.card SboxCode ≤ (Finset.univ.filter fun x : BitVec 4 => s0 x = 0).card := by
    refine Finset.card_le_card_of_injOn (fun c => leftInput (r c) k) (fun c _ => ?_) ?_
    · simpa using congrArg Prod.fst (hcodes c)
    · intro c _ d _ hcd
      have hrcd : r c = r d := leftInput_injective k hcd
      calc c = s1 (rightInput (r c) k) := (congrArg Prod.snd (hcodes c)).symm
        _ = s1 (rightInput (r d) k) := by rw [hrcd]
        _ = d := congrArg Prod.snd (hcodes d)
  rw [card_filter_s0_eq_zero, ← FinEnum.card_eq_fintypeCard] at hle
  exact absurd hle (by decide)

end Sys2Proof.Machine
end

section
/-! PROOFS. The obligations of 42_round_function.md. -/

namespace Sys2Proof.Proofs

open Sys2Proof.Machine

/-- Settles O10: the listed elements make `xl` and `xr` the inputs of the two S-boxes, and each S-box
reads the address its input names. -/
theorem roundFunctionBitByBit : Obligations.RoundFunctionBitByBit := by
  refine ⟨fun r k => ⟨rfl, map_seqBit_permute r tableEP, seqBit_seqXor (ep r) k⟩,
    fun r k xl xr hxl hxr => ?_, rfl, rfl, rfl, rfl, rfl, rfl⟩
  have hl : xl = leftInput r k := eq_of_map_seqBit_eq (hxl.trans (map_seqBit_leftInput r k).symm)
  have hr : xr = rightInput r k := eq_of_map_seqBit_eq (hxr.trans (map_seqBit_rightInput r k).symm)
  refine ⟨?_, sbox_eq_romRead_of_map_seqBit hxl romS0, sbox_eq_romRead_of_map_seqBit hxr romS1⟩
  rw [hl, hr, roundF_eq]
  exact map_seqBit_p4_join _ _

/-- Settles O11: the operands meet in one xor, and injectivity fails by counting. -/
theorem roundFunctionProperties : Obligations.RoundFunctionProperties :=
  ⟨roundF_eq_roundF_zero, roundF_not_injective, rfl, rfl, rfl, rfl, rfl⟩

end Sys2Proof.Proofs
end

section
/-! PROOFS. The family of 43_key_schedule.md, the wiring (R120, R121): which key bit each bit of the
rotated halves and of the subkeys is. -/

namespace Sys2Proof.Machine

/-- Where each element of `v` is a wire from `q`, so is the whole sequence. -/
theorem map_seqBit_of_wire {m n : Nat} {v : BitVec m} {q : BitVec n} {wire : Fin m → Fin n}
    (h : ∀ i, seqBit v i = seqBit q (wire i)) :
    (List.finRange m).map (seqBit v) = ((List.finRange m).map wire).map (seqBit q) := by
  rw [List.map_map]
  exact List.map_congr_left fun i _ => h i

theorem seqBit_p10 (s : BitVec 10) (i : Fin 10) : seqBit (p10 s) i = seqBit s (tableP10.get i) :=
  seqBit_permute s tableP10 i

theorem seqBit_p8 (s : BitVec 10) (i : Fin 8) : seqBit (p8 s) i = seqBit s (tableP8.get i) :=
  seqBit_permute s tableP8 i

variable (n : Fin 5) (key : Key)

/-! Both subkeys are one function of the total rotation (R120). -/

/-- The left half of the permuted key rotated by `n`: `l1` at 1, `l2` at 3. -/
def leftHalf : KeyHalf := rotl (split (h := 5) (p10 key)).1 n

/-- The right half of the permuted key rotated by `n`: `r1` at 1, `r2` at 3. -/
def rightHalf : KeyHalf := rotl (split (h := 5) (p10 key)).2 n

/-- The subkey taken from the halves rotated by `n`. -/
def rotatedSubkey : Subkey := p8 (join (leftHalf n key) (rightHalf n key))

theorem onceRotated_eq : onceRotated key = (leftHalf 1 key, rightHalf 1 key) := rfl

theorem rotl_leftHalf (k : Fin 5) : rotl (leftHalf n key) k = leftHalf (n + k) key :=
  rotl_rotl _ n k

theorem rotl_rightHalf (k : Fin 5) : rotl (rightHalf n key) k = rightHalf (n + k) key :=
  rotl_rotl _ n k

/-- The second rotation is cumulative, 3 in all. -/
theorem keySchedule_eq : keySchedule key = (rotatedSubkey 1 key, rotatedSubkey 3 key) := by
  have hsteps : keySchedule key = (rotatedSubkey 1 key,
      p8 (join (rotl (leftHalf 1 key) 2) (rotl (rightHalf 1 key) 2))) := rfl
  rw [hsteps, rotl_leftHalf, rotl_rightHalf]
  rfl

/-! The key index that each position carries (R121). -/

/-- The key index at position `i` of the left half rotated by `n`. -/
def leftWire (i : Fin 5) : Fin 10 := tableP10.get ((i + n).castAdd 5)

/-- The key index at position `i` of the right half rotated by `n`. -/
def rightWire (i : Fin 5) : Fin 10 := tableP10.get ((i + n).natAdd 5)

/-- The key index at position `i` of the two halves rotated by `n` and joined. -/
def halvesWire : Fin (5 + 5) → Fin 10 := Fin.addCases (leftWire n) (rightWire n)

/-- The key index at position `i` of the subkey taken from the halves rotated by `n`. -/
def subkeyWire (i : Fin 8) : Fin 10 := halvesWire n (tableP8.get i)

theorem seqBit_leftHalf (i : Fin 5) : seqBit (leftHalf n key) i = seqBit key (leftWire n i) := by
  rw [leftHalf, seqBit_rotl, seqBit_split_fst, seqBit_p10, leftWire]

theorem seqBit_rightHalf (i : Fin 5) : seqBit (rightHalf n key) i = seqBit key (rightWire n i) := by
  rw [rightHalf, seqBit_rotl, seqBit_split_snd, seqBit_p10, rightWire]

theorem seqBit_join_halves (i : Fin (5 + 5)) :
    seqBit (join (leftHalf n key) (rightHalf n key)) i = seqBit key (halvesWire n i) := by
  cases i using Fin.addCases with
  | left i => rw [seqBit_join_castAdd, seqBit_leftHalf, halvesWire, Fin.addCases_left]
  | right i => rw [seqBit_join_natAdd, seqBit_rightHalf, halvesWire, Fin.addCases_right]

/-- R121: a subkey is wires from the key. -/
theorem seqBit_rotatedSubkey (i : Fin 8) :
    seqBit (rotatedSubkey n key) i = seqBit key (subkeyWire n i) :=
  (seqBit_p8 _ i).trans (seqBit_join_halves n key _)

theorem map_seqBit_k1 : (List.finRange 8).map (seqBit (keySchedule key).1) =
    ([0, 6, 8, 3, 7, 2, 9, 5] : List (Fin 10)).map (seqBit key) :=
  map_seqBit_of_wire (seqBit_rotatedSubkey 1 key)

theorem map_seqBit_k2 : (List.finRange 8).map (seqBit (keySchedule key).2) =
    ([7, 2, 5, 4, 9, 1, 8, 0] : List (Fin 10)).map (seqBit key) := by
  rw [keySchedule_eq]
  exact map_seqBit_of_wire (seqBit_rotatedSubkey 3 key)

end Sys2Proof.Machine
end

section
/-! PROOFS. The family of 43_key_schedule.md, what follows from the wiring (R122). -/

namespace Sys2Proof.Machine

/-- Equal subkeys, of one key or of two, have the same key bits on their wires. -/
theorem seqBit_subkeyWire_eq {n m : Fin 5} {a b : Key}
    (h : rotatedSubkey n a = rotatedSubkey m b) (i : Fin 8) :
    seqBit a (subkeyWire n i) = seqBit b (subkeyWire m i) := by
  rw [← seqBit_rotatedSubkey, h, seqBit_rotatedSubkey]

/-! What determines the key. -/

/-- Every key bit is used by one of the two subkeys. -/
theorem keySchedule_injective : Function.Injective keySchedule := by
  have hused : ∀ j : Fin 10, (∃ i, subkeyWire 1 i = j) ∨ ∃ i, subkeyWire 3 i = j := by decide
  intro a b hab
  rw [keySchedule_eq, keySchedule_eq, Prod.mk.injEq] at hab
  obtain ⟨hk1, hk2⟩ := hab
  refine eq_of_seqBit_eq fun j => ?_
  rcases hused j with ⟨i, rfl⟩ | ⟨i, rfl⟩
  · exact seqBit_subkeyWire_eq hk1 i
  · exact seqBit_subkeyWire_eq hk2 i

/-- A subkey together with the key bits at `u` and `v`. -/
def subkeyAndBits (n : Fin 5) (u v : Fin 10) (key : Key) : Subkey × Bool × Bool :=
  (rotatedSubkey n key, seqBit key u, seqBit key v)

section

variable {n : Fin 5} {u v : Fin 10} (hused : ∀ j, (∃ i, subkeyWire n i = j) ∨ j = u ∨ j = v)

include hused

/-- Where `u` and `v` are the only key bits that the subkey does not use, they complete it to the
key. -/
theorem subkeyAndBits_bijective : Function.Bijective (subkeyAndBits n u v) := by
  refine (Nat.bijective_iff_injective_and_card _).2 ⟨fun a b hab => ?_, ?_⟩
  · simp only [subkeyAndBits, Prod.mk.injEq] at hab
    obtain ⟨hsubkey, hu, hv⟩ := hab
    refine eq_of_seqBit_eq fun j => ?_
    rcases hused j with ⟨i, rfl⟩ | rfl | rfl
    · exact seqBit_subkeyWire_eq hsubkey i
    · exact hu
    · exact hv
  · simp [← FinEnum.card_eq_fintypeCard]

/-- A subkey's keys are one for each value of the two bits it does not use. -/
theorem exists_four_keys (k : Subkey) : ∃ keys : List Key, keys.length = 4 ∧ keys.Nodup ∧
    ∀ key, rotatedSubkey n key = k ↔ key ∈ keys := by
  obtain ⟨keyOf, hleft, hright⟩ :=
    Function.bijective_iff_has_inverse.1 (subkeyAndBits_bijective hused)
  refine ⟨(Finset.univ : Finset (Bool × Bool)).toList.map (fun bits => keyOf (k, bits)), by simp,
    (Finset.nodup_toList _).map fun bits bits' h => ?_, fun key => ⟨fun hk => ?_, fun hmem => ?_⟩⟩
  · exact congrArg Prod.snd (hright.injective h)
  · have hkey : keyOf (k, seqBit key u, seqBit key v) = key := by rw [← hk]; exact hleft key
    exact List.mem_map.2 ⟨_, by simp, hkey⟩
  · obtain ⟨bits, -, rfl⟩ := List.mem_map.1 hmem
    exact congrArg Prod.fst (hright (k, bits))

end

/-! The keys whose two subkeys are equal. -/

/-- The key indices fall into three classes: 0, 5, 7, 8, 9, then 1, 2, 6, then 3, 4. -/
def classTable : List (Fin 3) := [0, 1, 1, 2, 2, 0, 1, 0, 0, 0]

/-- The key with one bit for each class. -/
def keyOfClasses (c : BitVec 3) : Key := permute c classTable

theorem seqBit_keyOfClasses (c : BitVec 3) (i : Fin 10) :
    seqBit (keyOfClasses c) i = seqBit c (classTable.get i) :=
  seqBit_permute c classTable i

/-- The two wires to one position come from one class. -/
theorem subkeys_keyOfClasses (c : BitVec 3) :
    (keySchedule (keyOfClasses c)).1 = (keySchedule (keyOfClasses c)).2 := by
  have hclass : ∀ i, classTable.get (subkeyWire 1 i) = classTable.get (subkeyWire 3 i) := by decide
  rw [keySchedule_eq]
  refine eq_of_seqBit_eq fun i => ?_
  rw [seqBit_rotatedSubkey, seqBit_rotatedSubkey, seqBit_keyOfClasses, seqBit_keyOfClasses]
  exact congrArg (seqBit c) (hclass i)

/-- Equal subkeys tie every key bit to the one at 0, 1 or 3. -/
theorem eq_keyOfClasses_of_subkeys_eq {key : Key} (h : (keySchedule key).1 = (keySchedule key).2) :
    key = keyOfClasses (permute key [0, 1, 3]) := by
  rw [keySchedule_eq] at h
  have hwire (i : Fin 8) := seqBit_subkeyWire_eq h i
  have h7 : seqBit key 7 = seqBit key 0 := (hwire 0).symm
  have h9 : seqBit key 9 = seqBit key 0 := (hwire 4).symm.trans h7
  have h8 : seqBit key 8 = seqBit key 0 := (hwire 6).symm.trans h9
  have h5 : seqBit key 5 = seqBit key 0 := hwire 7
  have h2 : seqBit key 2 = seqBit key 1 := hwire 5
  have h6 : seqBit key 6 = seqBit key 1 := (hwire 1).trans h2
  have h4 : seqBit key 4 = seqBit key 3 := (hwire 3).symm
  refine eq_of_seqBit_eq fun i => ?_
  rw [seqBit_keyOfClasses]
  refine Eq.trans ?_ (seqBit_permute key [0, 1, 3] _).symm
  fin_cases i
  exacts [rfl, rfl, h2, rfl, h4, h5, h6, h7, h8, h9]

/-- R122's eight keys. -/
def equalSubkeyKeys : List Key :=
  [0b0000000000, 0b0001100000, 0b0110001000, 0b0111101000, 0b1000010111, 0b1001110111,
    0b1110011111, 0b1111111111]

theorem mem_equalSubkeyKeys_iff {key : Key} :
    key ∈ equalSubkeyKeys ↔ ∃ c, key = keyOfClasses c := by
  have hlist : equalSubkeyKeys = (List.finRange 8).map fun j => keyOfClasses (.ofFin j) := rfl
  rw [hlist, List.mem_map]
  exact ⟨fun ⟨j, _, h⟩ => ⟨_, h.symm⟩, fun ⟨c, h⟩ => ⟨c.toFin, List.mem_finRange _, h.symm⟩⟩

theorem subkeys_eq_iff (key : Key) :
    (keySchedule key).1 = (keySchedule key).2 ↔ key ∈ equalSubkeyKeys := by
  rw [mem_equalSubkeyKeys_iff]
  refine ⟨fun h => ⟨_, eq_keyOfClasses_of_subkeys_eq h⟩, ?_⟩
  rintro ⟨c, rfl⟩
  exact subkeys_keyOfClasses c

/-! Complementing the key. -/

theorem seqBit_not {m : Nat} (v : BitVec m) (i : Fin m) : seqBit (~~~v) i = !seqBit v i := by
  have hlt : m - 1 - i.val < m := by omega
  simp [seqBit, hlt]

/-- The wires carry no logic, so they carry the complement. -/
theorem rotatedSubkey_not (n : Fin 5) (key : Key) :
    rotatedSubkey n (~~~key) = ~~~rotatedSubkey n key :=
  eq_of_seqBit_eq fun i => by
    rw [seqBit_rotatedSubkey, seqBit_not, seqBit_not, seqBit_rotatedSubkey]

theorem keySchedule_not (key : Key) :
    keySchedule (~~~key) = (~~~(keySchedule key).1, ~~~(keySchedule key).2) := by
  rw [keySchedule_eq, keySchedule_eq, rotatedSubkey_not, rotatedSubkey_not]

end Sys2Proof.Machine
end

section
/-! PROOFS. The obligations of 43_key_schedule.md. -/

namespace Sys2Proof.Proofs

open Sys2Proof.Machine Sys2Proof.Safety

/-- Settles O12: the two rotations add up, and each stage's positions are read off the tables. -/
theorem keyScheduleIsWiring : Obligations.KeyScheduleIsWiring := by
  refine ⟨fun _ => rfl, fun key => congrArg Prod.snd (keySchedule_eq key), fun q => ?_, rfl⟩
  rw [onceRotated_eq, rotl_leftHalf, rotl_rightHalf]
  exact ⟨map_seqBit_permute q tableP10, map_seqBit_of_wire (seqBit_leftHalf 1 q),
    map_seqBit_of_wire (seqBit_rightHalf 1 q), map_seqBit_of_wire (seqBit_leftHalf 3 q),
    map_seqBit_of_wire (seqBit_rightHalf 3 q), map_seqBit_k1 q, map_seqBit_k2 q,
    map_seqBit_k1 q, map_seqBit_k2 q⟩

/-- Settles O13: which bits the wires use, and which they tie together, gives each count. Subkey 1
leaves out the key bits at 1 and 4, subkey 2 those at 3 and 6. -/
theorem keyScheduleProperties : Obligations.KeyScheduleProperties := by
  refine ⟨keySchedule_injective, subkeys_eq_iff, keySchedule_not, rfl, rfl,
    exists_four_keys (n := 1) (u := 1) (v := 4) (by decide), ?_⟩
  have hk2 (key : Key) : (keySchedule key).2 = rotatedSubkey 3 key :=
    congrArg Prod.snd (keySchedule_eq key)
  simp only [hk2]
  exact exists_four_keys (n := 3) (u := 3) (v := 6) (by decide)

/-- Settles O22: the mask keeps `op`, and in IDLE the command is complete at its accepting step. -/
theorem loadkeyStoresTheSubkeys : Obligations.LoadkeyStoresTheSubkeys :=
  ⟨fun _ h => decode_eq_loadkey (and_opMask_eq_iff.1 h), fun _ _ hs => exec_eq_completed hs rfl,
    fun _ _ hs => congrArg _ (whenIdle_of_ne _ hs), rfl⟩

end Sys2Proof.Proofs
end

section
/-! PROOFS. The family of 44_encrypt.md, the transform (R130, R132): the halves of a block and the
block of its halves, and how a round with the same subkey takes back a round. -/

namespace Sys2Proof.Machine

/-! The permutations at the two ends of ENC undo each other (R90). -/

theorem initialHalves_of_ip {p : Block} {l r : Half} (h : ip p = l ++ r) :
    initialHalves p = (l, r) := by
  rw [initialHalves, h]
  exact split_join l r

theorem initialHalves_finish (lr : Half × Half) : initialHalves (finish lr) = lr :=
  initialHalves_of_ip (ip_fp (join lr.1 lr.2))

theorem finish_initialHalves (p : Block) : finish (initialHalves p) = p :=
  (congrArg fp (join_split (h := 4) (ip p))).trans (fp_ip p)

/-! A round adds F of a half that it hands on, so adding F again takes it back. -/

theorem seqXor_seqXor_cancel {m : Nat} (a b : BitVec m) : seqXor (seqXor a b) b = a := by
  simp [seqXor]

/-- The last round taken back by a round with the swap: the halves come out exchanged. -/
theorem swapRound_lastRound (k : Subkey) (lr : Half × Half) :
    swapRound k (lastRound k lr) = lr.swap :=
  Prod.ext rfl (seqXor_seqXor_cancel lr.1 (roundF lr.2 k))

/-- A round with the swap, its halves exchanged, taken back by the last round. -/
theorem lastRound_swap_swapRound (k : Subkey) (lr : Half × Half) :
    lastRound k (swapRound k lr).swap = lr :=
  Prod.ext (seqXor_seqXor_cancel lr.1 (roundF lr.2 k)) rfl

/-- The network with the subkeys exchanged takes back the rounds of the first one, last round
first (R132). -/
theorem preOutput_enc (k1 k2 : Subkey) (p : Block) :
    preOutput k2 k1 (enc k1 k2 p) = initialHalves p := by
  rw [enc, preOutput, initialHalves_finish, preOutput, swapRound_lastRound,
    lastRound_swap_swapRound]

theorem enc_enc (k1 k2 : Subkey) (p : Block) : enc k2 k1 (enc k1 k2 p) = p :=
  (congrArg finish (preOutput_enc k1 k2 p)).trans (finish_initialHalves p)

theorem enc_bijective (k1 k2 : Subkey) : Function.Bijective (enc k1 k2) :=
  Function.bijective_iff_has_inverse.2 ⟨enc k2 k1, enc_enc k1 k2, enc_enc k2 k1⟩

end Sys2Proof.Machine
end

section
/-! PROOFS. The family of 44_encrypt.md, the table of the sequencer (R138, R140): what a step does
by `rst`, `ST` and the fields of the word, and what the rounds read. -/

namespace Sys2Proof.Machine

open Sys2Proof.Safety

variable {s : State} {w : CmdWord}

/-! The step with `rst` = 1 and in FAULT; the steps at the other values of `ST` stand above. -/

theorem step_of_reset (hr : s.ports.rst = true) : step s = .next s.sampled.resetStep := by
  simp [step_eq, clockEdge, hr]

theorem step_of_fault (hr : s.ports.rst = false) (hs : s.st = .fault) :
    step s = .next s.sampled := by
  simp [step_eq, clockEdge, hr, hs]

/-! Accepting a word, by the values of its fields (R138); the faulting words stand above. -/

theorem exec_decode_of_nop (hop : opField w = 0b00#2) : exec (decode w) s = .next s := by
  rw [decode_eq_nop hop]
  rfl

theorem exec_decode_of_loadkey (hs : s.st = .idle) (hop : opField w = 0b01#2) :
    exec (decode w) s = .next (s.loadKey (argField w)) := by
  rw [decode_eq_loadkey hop]
  exact exec_eq_completed hs rfl

/-- Accepting an ENCRYPT in IDLE, with or without a key (R133). -/
theorem exec_encrypt_of_idle (hs : s.st = .idle) (p : Block) :
    exec (.encrypt p) s = .next (s.acceptEncrypt p) :=
  congrArg _ (whenIdle_of_idle _ hs)

/-- What accepting the word `w` in IDLE leaves, as R138's table chooses it by the fields. -/
def State.accept (s : State) (w : CmdWord) : State :=
  if opField w = 0b00 then s
  else if opField w = 0b01 then s.loadKey (argField w)
  else if opField w = 0b11 then s.raiseFault .badop
  else if overField w ≠ 0b00 then s.raiseFault .badlen
  else s.acceptEncrypt (blockOperand w)

theorem exec_decode_eq_accept (hs : s.st = .idle) : exec (decode w) s = .next (s.accept w) := by
  rcases twoBits_cases (opField w) with hop | hop | hop | hop
  · simp [State.accept, hop, exec_decode_of_nop hop]
  · simp [State.accept, hop, exec_decode_of_loadkey hs hop]
  · by_cases hhigh : overField w = 0b00#2
    · simp [State.accept, hop, hhigh, decode_eq_encrypt hop hhigh,
        exec_encrypt_of_idle hs]
    · simp [State.accept, hop, hhigh, exec_decode_of_badlen hs hop hhigh]
  · simp [State.accept, hop, exec_decode_of_badop hs hop]

/-! The whole table (R138). -/

/-- What a step with `rst` = 0 and the word `w` on `cmd` leaves, as R138's table chooses it by
`ST`. -/
def State.clocked (s : State) (w : CmdWord) : State :=
  match s.st with
  | .fault => s
  | .round1 => s.round1Step
  | .round2 => s.round2Step
  | .idle => s.accept w

theorem step_eq_clocked (hr : s.ports.rst = false) :
    step s = .next (s.sampled.clocked s.ports.cmd) := by
  cases hs : s.st with
  | idle =>
    rw [step_of_idle hr hs, exec_decode_eq_accept (s := s.sampled) hs]
    simp [State.clocked, hs]
  | round1 => simp [step_of_round1 hr hs, State.clocked, hs]
  | round2 => simp [step_of_round2 hr hs, State.clocked, hs]
  | fault => simp [step_of_fault hr hs, State.clocked, hs]

/-! What the rounds read (R140). -/

/-- R140 in ROUND1: the new halves are a function of `L`, `R`, `K1`. -/
theorem round1Step_congr {u : State} (hl : s.l = u.l) (hr : s.r = u.r) (hk1 : s.k1 = u.k1) :
    s.round1Step.l = u.round1Step.l ∧ s.round1Step.r = u.round1Step.r := by
  simp [hl, hr, hk1]

/-- R140 in ROUND2: the new halves and the result are a function of `L`, `R`, `K2`. -/
theorem round2Step_congr {u : State} (hl : s.l = u.l) (hr : s.r = u.r) (hk2 : s.k2 = u.k2) :
    s.round2Step.l = u.round2Step.l ∧ s.round2Step.r = u.round2Step.r ∧
      s.round2Step.dout = u.round2Step.dout := by
  simp [hl, hr, hk2]

end Sys2Proof.Machine
end

section
/-! PROOFS. The family of 44_encrypt.md, the run of an ENCRYPT (R133, R139): its accept step without
a key, its whole effect with one, and its three steps. -/

namespace Sys2Proof.Safety

open Sys2Proof.Machine

variable {s : State}

theorem exec_encrypt_of_no_key (hs : s.st = .idle) (hk : s.kv = false) (p : Block) :
    exec (.encrypt p) s = .next (s.raiseFault .nokey) := by
  simp [exec_encrypt_of_idle hs, State.acceptEncrypt, hk]

theorem completed_encrypt_of_key (hk : s.kv = true) (p : Block) :
    completed (.encrypt p) s = { s with
      l := (preOutput s.k1 s.k2 p).1, r := (preOutput s.k1 s.k2 p).2,
      dout := enc s.k1 s.k2 p, dv := true } :=
  if_pos hk

theorem runFor_one (s : State) : runFor 1 s = step s := by
  cases h : step s <;> simp [runFor, h]

/-- The three steps of an ENCRYPT accepted with a key, whatever stands on `cmd` in the rounds
(R133 to R135, R139): `DV` is 0 and the engine busy after the first two. -/
theorem encrypt_steps {p : Block} {w1 w2 : CmdWord} {rest : List InPorts} (hs : s.st = .idle)
    (hk : s.kv = true)
    (hin : s.inputs = driving (encode (.encrypt p)) :: driving w1 :: driving w2 :: rest) :
    ∃ t1 t2 : State,
      (step s = .next t1 ∧ t1.dv = false ∧ t1.ready = false) ∧
      (step t1 = .next t2 ∧ t2.dv = false ∧ t2.ready = false) ∧
      step t2 = .next { completed (.encrypt p) s with inputs := rest } := by
  have haccept : step s = .next (s.sampled.startEncryption p) :=
    (step_of_driving_encode hs hin).trans (exec_encrypt_of_key (s := s.sampled) hs hk p)
  have hround1 := step_of_round1 (s := s.sampled.startEncryption p)
    (by simp [State.ports, hin, driving]) rfl
  have hrun := runFor_encrypt hs hk hin
  rw [runFor_succ haccept, runFor_succ hround1, runFor_one] at hrun
  exact ⟨_, _, ⟨haccept, rfl, rfl⟩, ⟨hround1, rfl, rfl⟩, hrun⟩

end Sys2Proof.Safety
end

section
/-! PROOFS. The obligations of 44_encrypt.md. -/

namespace Sys2Proof.Proofs

open Sys2Proof.Machine Sys2Proof.Safety

/-- Settles O14: the halves are those of `IP(p)`, and with them ENC is its two rounds. -/
theorem encryptIsTheSixSteps : Obligations.EncryptIsTheSixSteps := by
  refine ⟨fun k1 k2 p l0 r0 nr fl hip hnr hfl => ?_, rfl, rfl, rfl, rfl, rfl, rfl, rfl⟩
  subst hfl hnr
  rw [enc, preOutput, initialHalves_of_ip hip]
  rfl

/-- Settles O15: the exchanged network takes back one round after the other, so it is the inverse
on both sides. -/
theorem exchangedSubkeysUndoEncryption : Obligations.ExchangedSubkeysUndoEncryption :=
  ⟨enc_enc, enc_bijective⟩

/-- Settles O27, from the step in ROUND1. -/
theorem round1StepAsStated : Obligations.Round1StepAsStated :=
  ⟨fun _ => step_of_round1, rfl, rfl⟩

/-- Settles O28, from the step in ROUND2. -/
theorem round2StepAsStated : Obligations.Round2StepAsStated :=
  ⟨fun _ => step_of_round2, rfl, rfl, rfl⟩

/-- Settles O23: the mask keeps `op` and `cmd[9:8]`, `KV` chooses between the two accept steps, and
the run of three steps completes the command. -/
theorem encryptStartsOrFaultsNokey : Obligations.EncryptStartsOrFaultsNokey := by
  refine ⟨fun w => (and_rowMask_eq_rowMatch_iff w (.encrypt 0)).1,
    fun p s hs hk => exec_encrypt_of_key hs hk p,
    fun p s hs hk => exec_encrypt_of_no_key hs hk p,
    fun p s hs => congrArg _ (whenIdle_of_ne _ hs),
    fun p s w1 w2 rest hs hk hin => ⟨_, runFor_encrypt hs hk hin, ?_⟩, rfl, rfl⟩
  rw [completed_encrypt_of_key hk]
  exact ⟨rfl, rfl⟩

/-- Settles O32: the three steps of an accepted ENCRYPT complete it. -/
theorem encryptionEndToEnd : Obligations.EncryptionEndToEnd := by
  refine ⟨fun s p w1 w2 rest hs hk hin => ?_, fun s key p h => by rw [← h], ?_⟩
  · obtain ⟨t1, t2, ⟨hstep1, hdv1, hready1⟩, ⟨hstep2, hdv2, hready2⟩, hstep3⟩ :=
      encrypt_steps hs hk hin
    rw [completed_encrypt_of_key hk] at hstep3
    exact ⟨t1, t2, hstep1, hdv1, hready1, hstep2, hdv2, hready2, hstep3⟩
  · have hkeys : keySchedule 0b1010000010#10 = (0xA4#8, 0x43#8) := rfl
    rw [hkeys]
    rfl

/-- Settles O29, by `rst` and the value of `ST`; in IDLE by the fields of the accepted word. The
writes that the statement spells out are the named updates by definition. -/
theorem stepIsTheTableOfTheSequencer : Obligations.StepIsTheTableOfTheSequencer :=
  ⟨fun _ hr => ⟨_, step_of_reset hr, rfl, rfl, rfl, rfl, rfl⟩, fun _ => step_eq_clocked⟩

/-- Settles O31: outside IDLE the clock edge does not look at `cmd`, and a round's writes are a
function of `L`, `R` and its subkey. -/
theorem busyStepsIgnoreTheCommand : Obligations.BusyStepsIgnoreTheCommand := by
  refine ⟨fun s w w' rest hs =>
    clockEdge_cmd_irrelevant (s := { s with inputs := rest }) (.inr hs) w w', ?_⟩
  intro s u s' u' hbusy hst hl hr hk1 hk2 hrst hrst' hstep hstep'
  rcases s.busy_iff.1 hbusy with hs | hs
  · obtain rfl := Host.Outcome.next.inj ((step_of_round1 hrst hs).symm.trans hstep)
    obtain rfl := Host.Outcome.next.inj ((step_of_round1 hrst' (hst ▸ hs)).symm.trans hstep')
    obtain ⟨hl', hr'⟩ := round1Step_congr (s := s.sampled) (u := u.sampled) hl hr hk1
    exact ⟨hl', hr', rfl, by simp [hs]⟩
  · obtain rfl := Host.Outcome.next.inj ((step_of_round2 hrst hs).symm.trans hstep)
    obtain rfl := Host.Outcome.next.inj ((step_of_round2 hrst' (hst ▸ hs)).symm.trans hstep')
    obtain ⟨hl', hr', hdout⟩ := round2Step_congr (s := s.sampled) (u := u.sampled) hl hr hk2
    exact ⟨hl', hr', rfl, fun _ => ⟨hdout, rfl, rfl⟩⟩

end Sys2Proof.Proofs
end

section
/-! PROOFS. The family of 60_exceptions.md, the causes (R151): which commands fault and why, and the
step that enters state FAULT. -/

namespace Sys2Proof.Safety

open Sys2Proof.Machine

variable {s t : State}

/-! The cause of a command's fault. -/

/-- The cause with which a command faults at the step that accepts it; none for a command that does
not fault (R151). -/
def faultCause (kv : Bool) : Instr → Option FaultCause
  | .nop _ => none
  | .loadkey _ => none
  | .encrypt _ => if kv then none else some .nokey
  | .reservedBadlen01 _ => some .badlen
  | .reservedBadlen10 _ => some .badlen
  | .reservedBadlen11 _ => some .badlen
  | .reservedBadop _ => some .badop

/-- The commands without a cause are those that a correct host gives (R157). -/
theorem faultCause_eq_none_iff (kv : Bool) (i : Instr) :
    faultCause kv i = none ↔ commandObeys kv i = true := by
  cases i <;> simp [faultCause, commandObeys]

theorem faultCause_decode_eq_badop_iff (kv : Bool) (w : CmdWord) :
    faultCause kv (decode w) = some .badop ↔ opField w = 0b11#2 := by
  obtain ⟨i, rfl⟩ := exists_encode_eq w
  rw [decode_encode]
  cases i <;> simp [faultCause, encode]

theorem faultCause_decode_eq_badlen_iff (kv : Bool) (w : CmdWord) :
    faultCause kv (decode w) = some .badlen ↔ opField w = 0b10#2 ∧ overField w ≠ 0b00#2 := by
  obtain ⟨i, rfl⟩ := exists_encode_eq w
  rw [decode_encode]
  cases i <;> simp [faultCause, encode]

theorem faultCause_decode_eq_nokey_iff (kv : Bool) (w : CmdWord) :
    faultCause kv (decode w) = some .nokey ↔
      opField w = 0b10#2 ∧ overField w = 0b00#2 ∧ kv = false := by
  obtain ⟨i, rfl⟩ := exists_encode_eq w
  rw [decode_encode]
  cases i <;> simp [faultCause, encode]

/-! The step that accepts a faulting command. -/

theorem accepts_iff : accepts s = true ↔ s.ports.rst = false ∧ s.st = .idle := by
  simp [accepts]

theorem exec_of_faultCause {i : Instr} {c : FaultCause} (hs : s.st = .idle)
    (hc : faultCause s.kv i = some c) : exec i s = .next (s.raiseFault c) := by
  cases i with
  | nop | loadkey => cases hc
  | encrypt p =>
    obtain ⟨hk, rfl⟩ : s.kv = false ∧ .nokey = c := by simpa [faultCause] using hc
    exact exec_encrypt_of_no_key hs hk p
  | reservedBadlen01 | reservedBadlen10 | reservedBadlen11 | reservedBadop =>
    cases hc
    exact exec_eq_completed hs rfl

/-- R154: the step that accepts a faulting command is the fault entry and nothing else. -/
theorem step_of_faultCause {c : FaultCause} (hr : s.ports.rst = false) (hs : s.st = .idle)
    (hc : faultCause s.kv (offered s) = some c) : step s = .next (s.sampled.raiseFault c) :=
  (step_of_idle hr hs).trans (exec_of_faultCause (s := s.sampled) hs hc)

/-- R154: after fault entry FLT is 1, DV and BUSY are 0, and KV is what it was. -/
theorem status_raiseFault (s : State) (c : FaultCause) :
    (s.raiseFault c).status = 0b1000#4 ||| ((BitVec.ofBool s.kv).setWidth 4 <<< 1) := by
  have hbits (kv : Bool) :
      BitVec.ofBool true ++ BitVec.ofBool false ++ BitVec.ofBool kv ++ BitVec.ofBool false =
        0b1000#4 ||| ((BitVec.ofBool kv).setWidth 4 <<< 1) := by
    decide +revert
  exact hbits s.kv

/-- R151: the only way into FAULT is to accept a faulting command. -/
theorem step_enters_fault (h : step s = .next t) (hs : s.st ≠ .fault) (ht : t.st = .fault) :
    s.st = .idle ∧ s.ports.rst = false ∧
      ∃ c, faultCause s.kv (offered s) = some c ∧ t.fcause = some c := by
  cases step_cases h with
  | reset | round1 | round2 | encrypt => cases ht
  | hold _ hf => exact absurd hf hs
  | nop | loadkey => exact absurd ht hs
  | nokey hr hi p hd hk => exact ⟨hi, hr, .nokey, by simp [hd, hk, faultCause], rfl⟩
  | badlen01 hr hi x hd | badlen10 hr hi x hd | badlen11 hr hi x hd =>
    exact ⟨hi, hr, .badlen, by simp [hd, faultCause], rfl⟩
  | badop hr hi x hd => exact ⟨hi, hr, .badop, by simp [hd, faultCause], rfl⟩

/-- R153: outside IDLE no command is accepted, so no fault arises and none is cleared. -/
theorem step_keeps_fault_of_not_idle (h : step s = .next t) (hr : s.ports.rst = false)
    (hs : s.st ≠ .idle) : t.fcause = s.fcause ∧ (t.st = .fault ↔ s.st = .fault) := by
  cases step_cases h with
  | reset hr' => simp [hr] at hr'
  | hold => exact ⟨rfl, .rfl⟩
  | round1 _ hs' | round2 _ hs' => simp [hs']
  | _ _ hi => exact absurd hi hs

/-- R155: in FAULT neither the state nor the recorded cause changes at a step with `rst` = 0. -/
theorem step_holds_fault (h : step s = .next t) (hs : s.st = .fault) (hr : s.ports.rst = false) :
    t.st = .fault ∧ t.fcause = s.fcause := by
  obtain ⟨hcause, hst⟩ := step_keeps_fault_of_not_idle h hr (by simp [hs])
  exact ⟨hst.2 hs, hcause⟩

end Sys2Proof.Safety
end

section
/-! PROOFS. The family of 60_exceptions.md, runs: state FAULT holds until reset (R156), and a
correct host never gets there (R157). -/

namespace Sys2Proof.Safety

open Sys2Proof.Machine

variable {s t : State}

/-- In FAULT a run with `rst` = 0 uses up the host's inputs and changes nothing else (R156). -/
theorem runFor_of_fault (n : Nat) (s : State) (hs : s.st = .fault) (hn : n ≤ s.inputs.length)
    (hr : ∀ q ∈ s.inputs.take n, q.rst = false) :
    runFor n s = .next { s with inputs := s.inputs.drop n } := by
  induction n generalizing s with
  | zero => rfl
  | succ n ih =>
    obtain ⟨p, rest, hin⟩ := List.exists_cons_of_length_pos (Nat.zero_lt_of_lt hn)
    rw [hin, List.take_succ_cons, List.forall_mem_cons, ← ports_of_cons hin] at hr
    obtain ⟨hfirst, hlater⟩ := hr
    have hrest := ih s.sampled hs (by simpa [hin] using hn) (by simpa [hin] using hlater)
    rw [runFor_succ (step_of_fault hfirst hs), hrest]
    simp [State.sampled]

/-- Every step answers a next state, with the clock edge of its `rst` (R138). -/
theorem exists_step_eq_next (s : State) : ∃ t, step s = .next t := by
  cases hr : s.ports.rst with
  | true => exact ⟨_, step_of_reset hr⟩
  | false => exact ⟨_, step_eq_clocked hr⟩

/-! What the host knows of `KV` (R157). -/

/-- `KV` tells whether a LOADKEY has been accepted since the last reset (R26). -/
theorem step_kv (h : step s = .next t) : t.kv = loadedAfter s.kv s := by
  cases step_cases h with
  | reset hr => simp [loadedAfter, hr]
  | hold hr hs | round1 hr hs | round2 hr hs => simp [loadedAfter, accepts, hr, hs, State.ready]
  | loadkey hr hs key hd => simp [loadedAfter, accepts, hr, hs, hd, State.ready, isLoadkey]
  | _ hr hs _ hd => simp [loadedAfter, hr, hd, isLoadkey]

theorem loadedAfter_mono {loaded kv : Bool} (h : loaded = true → kv = true) :
    loadedAfter loaded s = true → loadedAfter kv s = true := by
  cases loaded <;> cases kv <;> simp_all [loadedAfter]

theorem commandObeys_mono {loaded kv : Bool} {i : Instr} (h : loaded = true → kv = true)
    (hi : commandObeys loaded i = true) : commandObeys kv i = true := by
  cases i <;> simp_all [commandObeys]

/-- A step does not enter FAULT when the command it accepts is one that a correct host gives. -/
theorem step_st_ne_fault (h : step s = .next t) (hs : s.st ≠ .fault)
    (ho : accepts s = true → commandObeys s.kv (offered s) = true) : t.st ≠ .fault := by
  intro ht
  obtain ⟨hi, hr, c, hc, -⟩ := step_enters_fault h hs ht
  simp [(faultCause_eq_none_iff _ _).2 (ho (accepts_iff.2 ⟨hr, hi⟩))] at hc

/-- R157, by induction on the steps: while `KV` is 1 whenever the host counts on a key, no step
enters FAULT. -/
theorem runFor_st_ne_fault (n : Nat) (s : State) (loaded : Bool) (hs : s.st ≠ .fault)
    (hk : loaded = true → s.kv = true) (hhost : HostCorrect n loaded s) :
    ∃ t, runFor n s = .next t ∧ t.st ≠ .fault := by
  induction n generalizing s loaded with
  | zero => exact ⟨s, rfl, hs⟩
  | succ n ih =>
    obtain ⟨ho, hrest⟩ := hhost
    obtain ⟨t, h⟩ := exists_step_eq_next s
    have ht : t.st ≠ .fault := step_st_ne_fault h hs fun ha => commandObeys_mono hk (ho ha)
    have hkt : loadedAfter loaded s = true → t.kv = true := step_kv h ▸ loadedAfter_mono hk
    rw [runFor_succ h]
    exact ih t _ ht hkt (hrest t h)

end Sys2Proof.Safety
end

section
/-! PROOFS. The obligations of 60_exceptions.md. -/

namespace Sys2Proof.Proofs

open Sys2Proof.Machine Sys2Proof.Safety

/-- Settles O41, by induction on the steps with the invariant that `KV` is 1 whenever the host
counts on a key. -/
theorem correctHostNeverFaults : Obligations.CorrectHostNeverFaults :=
  runFor_st_ne_fault

/-- Settles O36: FAULT is entered by accepting a faulting command, and the fields of the word tell
the cause. -/
theorem faultsHaveThreeCauses : Obligations.FaultsHaveThreeCauses := by
  refine ⟨rfl, rfl, rfl, rfl, fun s t h hs ht => ?_⟩
  obtain ⟨hi, hr, c, hc, hcause⟩ := step_enters_fault h hs ht
  refine ⟨hi, hr, ?_⟩
  cases c with
  | badop => exact .inl ⟨(faultCause_decode_eq_badop_iff _ _).1 hc, hcause⟩
  | badlen =>
    obtain ⟨hop, hhigh⟩ := (faultCause_decode_eq_badlen_iff _ _).1 hc
    exact .inr (.inl ⟨hop, hhigh, hcause⟩)
  | nokey =>
    obtain ⟨hop, hhigh, hk⟩ := (faultCause_decode_eq_nokey_iff _ _).1 hc
    exact .inr (.inr ⟨hop, hhigh, hk, hcause⟩)

/-- Settles O38: the reset step, the steps outside IDLE, and in IDLE the cause that the fields of
the word give; with the invariant a recorded cause means FAULT. -/
theorem faultPriority : Obligations.FaultPriority := by
  refine ⟨fun s t h hr => ?_, fun s t => step_keeps_fault_of_not_idle, fun s t h hr hs => ?_,
    fun s t hinv h hr hc => ?_⟩
  · obtain rfl := Host.Outcome.next.inj ((step_of_reset hr).symm.trans h)
    exact ⟨rfl, rfl⟩
  · have enters {c : FaultCause} (hc : faultCause s.kv (offered s) = some c) :
        t.st = .fault ∧ t.fcause = some c := by
      obtain rfl := Host.Outcome.next.inj ((step_of_faultCause hr hs hc).symm.trans h)
      exact ⟨rfl, rfl⟩
    refine ⟨fun hop => enters ((faultCause_decode_eq_badop_iff _ _).2 hop),
      fun hop hhigh => enters ((faultCause_decode_eq_badlen_iff _ _).2 ⟨hop, hhigh⟩),
      fun hop hhigh hk => enters ((faultCause_decode_eq_nokey_iff _ _).2 ⟨hop, hhigh, hk⟩),
      fun ht hnokey => ?_⟩
    obtain ⟨-, -, c, hc, hcause⟩ := step_enters_fault h (by simp [hs]) ht
    obtain rfl : c = .nokey := Option.some.inj (hcause.symm.trans hnokey)
    exact (faultCause_decode_eq_nokey_iff _ _).1 hc
  · exact (step_holds_fault h (hinv.faultIffCause.2 hc) hr).2

/-- Settles O39, from the step in FAULT and by induction on the steps. -/
theorem faultHoldsUntilReset : Obligations.FaultHoldsUntilReset :=
  ⟨fun _ hs hr => step_of_fault hr hs, runFor_of_fault⟩

/-- Settles O37: a command that disobeys has a cause, its step is the fault entry, and the ports
follow from the three writes. -/
theorem faultEntryWritesThreeRegisters : Obligations.FaultEntryWritesThreeRegisters := by
  refine ⟨fun s ha ho => ?_, fun s c => ⟨rfl, ?_⟩⟩
  · obtain ⟨hr, hs⟩ := accepts_iff.1 ha
    obtain ⟨c, hc⟩ : ∃ c, faultCause s.kv (offered s) = some c := by
      simp [← Option.ne_none_iff_exists', faultCause_eq_none_iff, ho]
    exact ⟨c, step_of_faultCause hr hs hc⟩
  · rw [State.outputs, status_raiseFault]
    rfl

/-- Settles O40: with `rst` = 0 the step in FAULT holds it, so a step that leaves it is a reset. -/
theorem onlyResetLeavesFault : Obligations.OnlyResetLeavesFault := by
  refine ⟨fun s t h hs ht => ?_, fun s t => step_holds_fault⟩
  cases hr : s.ports.rst with
  | false => exact absurd (step_holds_fault h hs hr).1 ht
  | true =>
    obtain rfl := Host.Outcome.next.inj ((step_of_reset hr).symm.trans h)
    exact ⟨rfl, rfl, rfl⟩

end Sys2Proof.Proofs
end

section
/-! PROOFS. The family of 70_reset_and_hazards.md: what the ports show after a reset step (R180), and
how many steps a command takes until `cmd_ready` is 1 again (R190). -/

namespace Sys2Proof.Safety

open Sys2Proof.Machine

variable {s : State} {n : Nat}

/-- R180: after a reset step FLT, DV, KV and BUSY are 0. -/
theorem status_resetStep (s : State) : s.resetStep.status = 0b0000#4 := by
  change BitVec.ofBool false ++ BitVec.ofBool false ++ BitVec.ofBool false ++ BitVec.ofBool false =
    0b0000#4
  decide

/-- A host that keeps `rst` at 0 during `n + 1` listed steps does so at the first of them and during
the `n` after it. -/
theorem noReset_succ (hn : n + 1 ≤ s.inputs.length)
    (hr : ∀ q ∈ s.inputs.take (n + 1), q.rst = false) :
    s.ports.rst = false ∧ n ≤ s.sampled.inputs.length ∧
      ∀ q ∈ s.sampled.inputs.take n, q.rst = false := by
  obtain ⟨p, rest, hin⟩ := List.exists_cons_of_length_pos (Nat.zero_lt_of_lt hn)
  rw [hin, List.take_succ_cons, List.forall_mem_cons, ← ports_of_cons hin] at hr
  obtain ⟨hfirst, hlater⟩ := hr
  exact ⟨hfirst, by simpa [hin] using hn, by simpa [hin] using hlater⟩

/-! The commands that take one step. -/

/-- R190: a command that a correct host gives without a key needs no step after the accepting one. -/
theorem stepsAfterAccept_of_obeys_without_key (kv : Bool) {i : Instr}
    (ho : commandObeys false i = true) : stepsAfterAccept kv i = 0 := by
  rcases stepsAfterAccept_cases kv i with hn | ⟨p, rfl, -, -⟩
  · exact hn
  · cases ho

/-- The step that accepts a command without further steps completes it. -/
theorem step_eq_completed (ha : accepts s = true) (hn : stepsAfterAccept s.kv (offered s) = 0) :
    step s = .next (completed (offered s) s.sampled) := by
  obtain ⟨hr, hs⟩ := accepts_iff.1 ha
  exact (step_of_idle hr hs).trans (exec_eq_completed (s := s.sampled) hs hn)

/-! The three steps of an ENCRYPT with a key. -/

theorem step_eq_startEncryption {p : Block} (ha : accepts s = true) (hd : offered s = .encrypt p)
    (hk : s.kv = true) : step s = .next (s.sampled.startEncryption p) := by
  obtain ⟨hr, hs⟩ := accepts_iff.1 ha
  exact (step_of_idle hr hs).trans
    ((congrArg (exec · s.sampled) hd).trans (exec_encrypt_of_key (s := s.sampled) hs hk p))

/-- From ROUND1 the engine is ready after exactly two steps, and then it shows the result (R134,
R135). -/
theorem runFor_of_round1 (hs : s.st = .round1) (hn : n ≤ s.inputs.length)
    (hr : ∀ q ∈ s.inputs.take n, q.rst = false) (htwo : n ≤ 2) :
    ∃ t, runFor n s = .next t ∧ (t.ready = true ↔ n = 2) ∧
      (n = 2 → t.dv = true ∧ t.dout = s.round1Step.round2Step.dout) := by
  match n with
  | 0 => exact ⟨s, rfl, by simp [hs], by simp⟩
  | 1 =>
    obtain ⟨hr1, -, -⟩ := noReset_succ hn hr
    exact ⟨_, (runFor_one s).trans (step_of_round1 hr1 hs), by simp, by simp⟩
  | 2 =>
    obtain ⟨hr1, hn, hr⟩ := noReset_succ hn hr
    obtain ⟨hr2, -, -⟩ := noReset_succ (s := s.sampled.round1Step) hn hr
    refine ⟨s.sampled.round1Step.sampled.round2Step, ?_, by simp, fun _ => ⟨rfl, rfl⟩⟩
    rw [runFor_succ (step_of_round1 hr1 hs), runFor_one, step_of_round2 hr2 rfl]

/-- The result that the two rounds leave is ENC of the block (R130). -/
theorem dout_rounds_of_startEncryption (s : State) (p : Block) :
    (s.startEncryption p).round1Step.round2Step.dout = enc s.k1 s.k2 p :=
  rfl

/-- R190: an ENCRYPT with a key is ready after exactly three steps, with its result shown. -/
theorem runFor_accepted_encrypt {p : Block} (ha : accepts s = true) (hd : offered s = .encrypt p)
    (hk : s.kv = true) (hn : n + 1 ≤ s.inputs.length)
    (hr : ∀ q ∈ s.inputs.take (n + 1), q.rst = false) (htwo : n ≤ 2) :
    ∃ t, runFor (n + 1) s = .next t ∧ (t.ready = true ↔ n = 2) ∧
      (n = 2 → t.dv = true ∧ t.dout = enc s.k1 s.k2 p) := by
  obtain ⟨-, hn, hr⟩ := noReset_succ hn hr
  rw [runFor_succ (step_eq_startEncryption ha hd hk), ← dout_rounds_of_startEncryption]
  exact runFor_of_round1 (s := s.sampled.startEncryption p) rfl hn hr htwo

/-! The commands that fault. -/

theorem exists_faultCause_of_disobeys {kv : Bool} {i : Instr} (ho : commandObeys kv i = false) :
    ∃ c, faultCause kv i = some c := by
  simp [← Option.ne_none_iff_exists', faultCause_eq_none_iff, ho]

theorem causeCode_some_ne_zero (c : FaultCause) : causeCode (some c) ≠ 0b00#2 := by
  cases c <;> decide

/-- R190: a faulting command ends in the fault that its accepting step enters, over any number of
steps without reset. -/
theorem runFor_of_faultCause {c : FaultCause} (ha : accepts s = true)
    (hc : faultCause s.kv (offered s) = some c) (hn : n + 1 ≤ s.inputs.length)
    (hr : ∀ q ∈ s.inputs.take (n + 1), q.rst = false) :
    runFor (n + 1) s =
      .next { s.sampled.raiseFault c with inputs := s.sampled.inputs.drop n } := by
  obtain ⟨hr0, hs⟩ := accepts_iff.1 ha
  obtain ⟨-, hn, hr⟩ := noReset_succ hn hr
  rw [runFor_succ (step_of_faultCause hr0 hs hc)]
  exact runFor_of_fault n (s.sampled.raiseFault c) rfl hn hr

end Sys2Proof.Safety
end

section
/-! PROOFS. The obligations of 70_reset_and_hazards.md. -/

namespace Sys2Proof.Proofs

open Sys2Proof.Machine Sys2Proof.Safety

/-- Settles O35, row by row of R190: the reset step, the commands that their accepting step
completes, the rounds of an ENCRYPT, and the fault that holds. -/
theorem stepCountsToReady : Obligations.StepCountsToReady := by
  refine ⟨fun s hr => ⟨_, step_of_reset hr, rfl⟩, fun s ha ho => ?_,
    fun s p n ha hd hk hn hr hone hthree => ?_, fun s n ha ho hn hr hone => ?_⟩
  · have hn := stepsAfterAccept_of_obeys_without_key s.kv ho
    obtain ⟨-, hs⟩ := accepts_iff.1 ha
    have hobeys : commandObeys s.kv (offered s) = true := commandObeys_mono (by simp) ho
    refine ⟨_, step_eq_completed ha hn,
      (State.ready_iff _).2 (completed_st_of_obeys (s := s.sampled) hs hobeys), fun hload => ?_⟩
    rw [completed_kv, hload, Bool.or_true]
  · obtain ⟨n, rfl⟩ := Nat.exists_eq_add_of_le' hone
    obtain ⟨t, hrun, hready, hresult⟩ :=
      runFor_accepted_encrypt ha hd hk hn hr (Nat.le_of_succ_le_succ hthree)
    exact ⟨t, hrun, hready.trans Nat.succ_inj.symm, fun h => hresult (Nat.succ_inj.1 h)⟩
  · obtain ⟨n, rfl⟩ := Nat.exists_eq_add_of_le' hone
    obtain ⟨c, hc⟩ := exists_faultCause_of_disobeys ho
    exact ⟨_, runFor_of_faultCause ha hc hn hr, rfl, rfl, causeCode_some_ne_zero c⟩

/-- Settles O43, from the step with `rst` = 1 and the flags that it leaves. -/
theorem resetStepFromEveryState : Obligations.ResetStepFromEveryState :=
  fun s hr => ⟨_, step_of_reset hr, rfl, rfl, rfl, rfl, rfl, status_resetStep s.sampled, rfl, rfl⟩

end Sys2Proof.Proofs
end

section
/-! PROOFS. The rules of the whole machine: what executing a command can do (R61, R66, R67, R123,
R133), and the value of `ST` that accepting a word and a step leave (R138). -/

namespace Sys2Proof.Machine

open Sys2Proof.Safety

variable {s t : State} {w : CmdWord} {i : Instr}

/-- Outside IDLE no command has an effect of any kind (R61). -/
theorem exec_of_not_idle (hs : s.st ≠ .idle) (i : Instr) : exec i s = .next s := by
  cases i with
  | nop => rfl
  | _ => exact congrArg _ (whenIdle_of_ne _ hs)

/-- No arm of `exec` stops (log entry 5). -/
theorem exists_exec_eq_next (i : Instr) (s : State) : ∃ t, exec i s = .next t := by
  cases i <;> exact ⟨_, rfl⟩

/-- In IDLE a command without a cause of fault is a NOP, a LOADKEY, or an ENCRYPT with a key. -/
theorem exec_of_no_faultCause (hs : s.st = .idle) (hc : faultCause s.kv i = none) :
    (∃ arg, i = .nop arg ∧ exec i s = .next s) ∨
    (∃ key, i = .loadkey key ∧ exec i s = .next (s.loadKey key)) ∨
    (∃ p, i = .encrypt p ∧ s.kv = true ∧ exec i s = .next (s.startEncryption p)) := by
  cases i with
  | nop arg => exact .inl ⟨arg, rfl, rfl⟩
  | loadkey key => exact .inr (.inl ⟨key, rfl, exec_eq_completed hs rfl⟩)
  | encrypt p =>
    have hk : s.kv = true := by simpa [faultCause] using hc
    exact .inr (.inr ⟨p, rfl, hk, exec_encrypt_of_key hs hk p⟩)
  | reservedBadlen01 | reservedBadlen10 | reservedBadlen11 | reservedBadop => cases hc

/-- Inversion of a command's execution: it does nothing, loads the key, starts an encryption or
enters the fault state. -/
theorem exec_cases (h : exec i s = .next t) :
    t = s ∨
    (∃ key, i = .loadkey key ∧ t = s.loadKey key) ∨
    (∃ p, i = .encrypt p ∧ s.kv = true ∧ t = s.startEncryption p) ∨
    (∃ c, faultCause s.kv i = some c ∧ t = s.raiseFault c) := by
  have of_exec {u : State} (hu : exec i s = .next u) : t = u :=
    Host.Outcome.next.inj (h.symm.trans hu)
  by_cases hs : s.st = .idle
  · cases hc : faultCause s.kv i with
    | some c => exact .inr (.inr (.inr ⟨c, rfl, of_exec (exec_of_faultCause hs hc)⟩))
    | none =>
      rcases exec_of_no_faultCause hs hc with ⟨_, -, he⟩ | ⟨key, hi, he⟩ | ⟨p, hi, hk, he⟩
      · exact .inl (of_exec he)
      · exact .inr (.inl ⟨key, hi, of_exec he⟩)
      · exact .inr (.inr (.inl ⟨p, hi, hk, of_exec he⟩))
  · exact .inl (of_exec (exec_of_not_idle hs i))

/-- What `status` shows with a key loaded and a result in `DOUT`: DV and KV (R32). -/
theorem status_of_result (hs : s.st = .idle) (hdv : s.dv = true) (hk : s.kv = true) :
    s.status = 0b0110#4 := by
  rw [State.status, State.flt, State.busy, hs, hdv, hk]
  rfl

/-! The value of `ST` (R138). -/

/-- The four bits `cmd[11:8]` are `op` and the two bits after it. -/
theorem highBits_eq_encrypt_iff :
    w.extractLsb' 8 4 = 0b1000#4 ↔ opField w = 0b10#2 ∧ overField w = 0b00#2 := by
  have hjoin : opField w ++ overField w = w.extractLsb' 8 4 :=
    BitVec.extractLsb'_append_extractLsb'_eq_extractLsb' rfl
  have happend (op high : BitVec 2) :
      op ++ high = 0b1000#4 ↔ op = 0b10#2 ∧ high = 0b00#2 := by decide +revert
  rw [← hjoin, happend]

theorem acceptEncrypt_st (p : Block) :
    (s.acceptEncrypt p).st = if s.kv = true then .round1 else .fault := by
  rcases acceptEncrypt_cases (s := s) p with ⟨hk, h⟩ | ⟨hk, h⟩ <;> simp [h, hk]

/-- The row of IDLE in R138's table. -/
theorem accept_st (hs : s.st = .idle) (w : CmdWord) :
    (s.accept w).st =
      if opField w = 0b00#2 ∨ opField w = 0b01#2 then .idle
      else if w.extractLsb' 8 4 = 0b1000#4 ∧ s.kv = true then .round1
      else .fault := by
  simp only [highBits_eq_encrypt_iff]
  rcases twoBits_cases (opField w) with hop | hop | hop | hop
  · simp [State.accept, hop, hs]
  · simp [State.accept, hop, hs]
  · by_cases hhigh : overField w = 0b00#2 <;> simp [State.accept, hop, hhigh, acceptEncrypt_st]
  · simp [State.accept, hop]

/-- The rows of all values of `ST` in R138's table. -/
theorem clocked_st (s : State) (w : CmdWord) :
    (s.clocked w).st = match s.st with
      | .idle => (s.accept w).st
      | .round1 => .round2
      | .round2 => .idle
      | .fault => .fault := by
  cases hs : s.st <;> simp [State.clocked, hs]

end Sys2Proof.Machine
end

section
/-! PROOFS. The rules of the whole machine: the invariant of the registers (R25 to R28, R133, R135,
R154) after each register update, and so after every step. -/

namespace Sys2Proof.Safety

open Sys2Proof.Machine

variable {s t : State}

/-! Ways to meet the invariant. -/

/-- While `DV` is 0 the invariant says nothing of `DOUT`. -/
theorem inv_of_dv_eq_false (hdv : s.dv = false) (hfault : s.st = .fault ↔ s.fcause ≠ none)
    (hrounds : s.busy = true → s.kv = true)
    (hkeys : s.kv = true → ∃ key, keySchedule key = (s.k1, s.k2)) : Inv s where
  faultIffCause := hfault
  validOnlyIdle h := by simp [hdv] at h
  validHasKey h := by simp [hdv] at h
  roundsHaveKey := hrounds
  keysFromMaster := hkeys
  validResult h := by simp [hdv] at h

/-- The control state that a reset leaves meets the invariant, whatever the data registers hold
(R35, R180). -/
theorem inv_of_control_reset (hs : s.st = .idle) (hk : s.kv = false) (hdv : s.dv = false)
    (hc : s.fcause = none) : Inv s :=
  inv_of_dv_eq_false hdv (by simp [hs, hc]) (by simp [hs]) (by simp [hk])

/-! What the invariant says at a value of `ST`. -/

theorem Inv.fcause_eq_none (h : Inv s) (hs : s.st ≠ .fault) : s.fcause = none :=
  not_not.1 fun hc => hs (h.faultIffCause.2 hc)

theorem Inv.dv_eq_false (h : Inv s) (hs : s.st ≠ .idle) : s.dv = false :=
  Bool.eq_false_iff.2 fun hdv => hs (h.validOnlyIdle hdv)

/-! The invariant after each register update. -/

/-- The invariant speaks of registers only, and sampling the ports leaves them. -/
theorem Inv.sampled (h : Inv s) : Inv s.sampled := by
  obtain ⟨hfault, hidle, hkey, hrounds, hkeys, hresult⟩ := h
  exact ⟨hfault, hidle, hkey, hrounds, hkeys, hresult⟩

theorem inv_resetStep (s : State) : Inv s.resetStep :=
  inv_of_control_reset rfl rfl rfl rfl

theorem Inv.raiseFault (h : Inv s) (c : FaultCause) : Inv (s.raiseFault c) :=
  inv_of_dv_eq_false rfl (by simp) (by simp) h.keysFromMaster

theorem Inv.loadKey (h : Inv s) (key : Key) : Inv (s.loadKey key) :=
  inv_of_dv_eq_false rfl h.faultIffCause (fun _ => rfl) fun _ => ⟨key, rfl⟩

theorem Inv.startEncryption (h : Inv s) (hs : s.st = .idle) (hk : s.kv = true) (p : Block) :
    Inv (s.startEncryption p) :=
  inv_of_dv_eq_false rfl (by simp [h.fcause_eq_none, hs]) (fun _ => hk) h.keysFromMaster

theorem Inv.round1Step (h : Inv s) (hs : s.st = .round1) : Inv s.round1Step :=
  inv_of_dv_eq_false (h.dv_eq_false (by simp [hs])) (by simp [h.fcause_eq_none, hs])
    (fun _ => h.roundsHaveKey (by simp [hs])) h.keysFromMaster

/-- ROUND2 alone sets `DV`: it enters IDLE with the key that the rounds have, and writes `DOUT` from
the halves that it leaves (R135). -/
theorem Inv.round2Step (h : Inv s) (hs : s.st = .round2) : Inv s.round2Step where
  faultIffCause := by simp [h.fcause_eq_none, hs]
  validOnlyIdle _ := rfl
  validHasKey _ := h.roundsHaveKey (by simp [hs])
  roundsHaveKey := by simp
  keysFromMaster := h.keysFromMaster
  validResult _ := rfl

theorem Inv.after_step (h : Inv s) (hst : step s = .next t) : Inv t := by
  cases step_cases hst with
  | reset => exact inv_resetStep _
  | hold | nop => exact h.sampled
  | round1 _ hs => exact h.sampled.round1Step hs
  | round2 _ hs => exact h.sampled.round2Step hs
  | loadkey => exact h.sampled.loadKey _
  | encrypt _ hs p _ hk => exact h.sampled.startEncryption hs hk p
  | nokey | badlen01 | badlen10 | badlen11 | badop => exact h.sampled.raiseFault _

end Sys2Proof.Safety
end

section
/-! PROOFS. The rules of the whole machine: register contents that mean nothing to the host (R35, R185,
U6). Every update takes two states that differ only there to two such states. -/

namespace Sys2Proof.Safety

open Sys2Proof.Machine

variable {s u : State}

/-! The relation after each register update of both states. -/

theorem SameSpecified.sampled (h : SameSpecified s u) : SameSpecified s.sampled u.sampled := by
  obtain ⟨hst, hkv, hdv, hcause, hin, hkeys, hhalves, hresult⟩ := h
  exact ⟨hst, hkv, hdv, hcause, congrArg List.tail hin, hkeys, hhalves, hresult⟩

/-- A reset step draws its free values anew in each state, and none of them is specified (R180). -/
theorem SameSpecified.resetStep (h : SameSpecified s u) :
    SameSpecified s.resetStep u.resetStep where
  st := rfl
  kv := rfl
  dv := rfl
  fcause := rfl
  inputs := h.inputs
  keys := by simp
  halves := by simp
  result := by simp

theorem SameSpecified.raiseFault (h : SameSpecified s u) (c : FaultCause) :
    SameSpecified (s.raiseFault c) (u.raiseFault c) where
  st := rfl
  kv := h.kv
  dv := rfl
  fcause := rfl
  inputs := h.inputs
  keys := h.keys
  halves := by simp
  result := by simp

/-- LOADKEY overwrites the subkeys that it makes meaningful (R123). -/
theorem SameSpecified.loadKey (h : SameSpecified s u) (key : Key) :
    SameSpecified (s.loadKey key) (u.loadKey key) where
  st := h.st
  kv := rfl
  dv := rfl
  fcause := h.fcause
  inputs := h.inputs
  keys _ := ⟨rfl, rfl⟩
  halves hb := ⟨rfl, (h.halves hb).2⟩
  result := by simp

/-- ENCRYPT overwrites the half-blocks that it makes meaningful (R133). -/
theorem SameSpecified.startEncryption (h : SameSpecified s u) (hk : s.kv = true) (p : Block) :
    SameSpecified (s.startEncryption p) (u.startEncryption p) where
  st := rfl
  kv := h.kv
  dv := rfl
  fcause := h.fcause
  inputs := h.inputs
  keys := h.keys
  halves _ := ⟨hk, rfl, rfl⟩
  result := by simp

/-- ROUND1 reads half-blocks and a subkey that are specified there (R134). -/
theorem SameSpecified.round1Step (h : SameSpecified s u) (hs : s.st = .round1) :
    SameSpecified s.round1Step u.round1Step := by
  obtain ⟨hk, hl, hr⟩ := h.halves (by simp [hs])
  obtain ⟨hl', hr'⟩ := round1Step_congr hl hr (h.keys hk).1
  exact ⟨rfl, h.kv, h.dv, h.fcause, h.inputs, h.keys, fun _ => ⟨hk, hl', hr'⟩, h.result⟩

/-- ROUND2 reads half-blocks and a subkey that are specified there, so the result that it shows is
specified (R135). -/
theorem SameSpecified.round2Step (h : SameSpecified s u) (hs : s.st = .round2) :
    SameSpecified s.round2Step u.round2Step := by
  obtain ⟨hk, hl, hr⟩ := h.halves (by simp [hs])
  obtain ⟨-, -, hdout⟩ := round2Step_congr hl hr (h.keys hk).2
  exact ⟨rfl, h.kv, rfl, h.fcause, h.inputs, h.keys, by simp, fun _ => hdout⟩

/-! The relation after a step and after a run. -/

theorem SameSpecified.acceptEncrypt (h : SameSpecified s u) (p : Block) :
    SameSpecified (s.acceptEncrypt p) (u.acceptEncrypt p) := by
  rw [State.acceptEncrypt, State.acceptEncrypt, ← h.kv]
  split
  case isTrue hk => exact h.startEncryption hk p
  case isFalse => exact h.raiseFault .nokey

theorem SameSpecified.accept (h : SameSpecified s u) (w : CmdWord) :
    SameSpecified (s.accept w) (u.accept w) := by
  unfold State.accept
  split_ifs
  · exact h
  · exact h.loadKey _
  · exact h.raiseFault .badop
  · exact h.raiseFault .badlen
  · exact h.acceptEncrypt _

theorem SameSpecified.clocked (h : SameSpecified s u) (w : CmdWord) :
    SameSpecified (s.clocked w) (u.clocked w) := by
  rw [State.clocked, State.clocked, ← h.st]
  cases hs : s.st with
  | idle => exact h.accept w
  | round1 => exact h.round1Step hs
  | round2 => exact h.round2Step hs
  | fault => exact h

theorem SameSpecified.ports_eq (h : SameSpecified s u) : s.ports = u.ports := by
  rw [State.ports, State.ports, h.inputs]

/-- The host drives the same in both states, so both take the same kind of step. -/
theorem SameSpecified.after_step (h : SameSpecified s u) :
    ∃ s' u', step s = .next s' ∧ step u = .next u' ∧ SameSpecified s' u' := by
  cases hr : s.ports.rst with
  | true =>
    exact ⟨_, _, step_of_reset hr, step_of_reset (h.ports_eq ▸ hr), h.sampled.resetStep⟩
  | false =>
    refine ⟨_, _, step_eq_clocked hr, step_eq_clocked (h.ports_eq ▸ hr), ?_⟩
    rw [← h.ports_eq]
    exact h.sampled.clocked _

theorem SameSpecified.after_runFor (n : Nat) (h : SameSpecified s u) :
    ∃ s' u', runFor n s = .next s' ∧ runFor n u = .next u' ∧ SameSpecified s' u' := by
  induction n generalizing s u with
  | zero => exact ⟨s, u, rfl, rfl, h⟩
  | succ n ih =>
    obtain ⟨s', u', hs, hu, h'⟩ := h.after_step
    rw [runFor_succ hs, runFor_succ hu]
    exact ih h'

theorem SameSpecified.ready_eq (h : SameSpecified s u) : s.ready = u.ready := by
  rw [State.ready, State.ready, h.st]

/-- All of `status` is specified: it is a function of `ST`, `DV` and `KV` (R32). -/
theorem SameSpecified.status_eq (h : SameSpecified s u) : s.status = u.status := by
  simp [State.status, State.flt, State.busy, h.st, h.dv, h.kv]

end Sys2Proof.Safety
end

section
/-! PROOFS. The rules of the whole machine: who writes each register (R24), and what stays when nobody
writes it (R125). -/

namespace Sys2Proof.Safety

open Sys2Proof.Machine

variable {s t : State}

/-- What a step with `rst` = 0 does to the registers: nothing, a round, a LOADKEY, an ENCRYPT with a
key, or a fault entry. -/
inductive WriteStep (s : State) : State → Prop where
  | none : WriteStep s s.sampled
  | round1 (hs : s.st = .round1) : WriteStep s s.sampled.round1Step
  | round2 (hs : s.st = .round2) : WriteStep s s.sampled.round2Step
  | loadkey (hs : s.st = .idle) (key : Key) (hload : isLoadkey (offered s) = true) :
      WriteStep s (s.sampled.loadKey key)
  | encrypt (hs : s.st = .idle) (hk : s.kv = true) (p : Block) (hd : offered s = .encrypt p) :
      WriteStep s (s.sampled.startEncryption p)
  | fault (hs : s.st = .idle) (hbad : commandObeys s.kv (offered s) = false) (c : FaultCause) :
      WriteStep s (s.sampled.raiseFault c)

theorem writeStep_of_step (h : step s = .next t) (hr : s.ports.rst = false) : WriteStep s t := by
  cases step_cases h with
  | reset hr' => simp [hr] at hr'
  | hold | nop => exact .none
  | round1 _ hs => exact .round1 hs
  | round2 _ hs => exact .round2 hs
  | loadkey _ hs key hd => exact .loadkey hs key (by simp [hd, isLoadkey])
  | encrypt _ hs p hd hk => exact .encrypt hs hk p hd
  | nokey _ hs p hd hk => exact .fault hs (by simp [hd, hk, commandObeys]) _
  | badlen01 _ hs x hd | badlen10 _ hs x hd | badlen11 _ hs x hd | badop _ hs x hd =>
    exact .fault hs (by simp [hd, commandObeys]) _

/-! The writers of each register (R24). -/

theorem WriteStep.writer_of_keys (h : WriteStep s t)
    (hne : t.k1 ≠ s.k1 ∨ t.k2 ≠ s.k2 ∨ t.kv ≠ s.kv) :
    s.st = .idle ∧ isLoadkey (offered s) = true ∧ t.kv = true := by
  cases h with
  | loadkey hs key hload => exact ⟨hs, hload, rfl⟩
  | _ => simp at hne

theorem WriteStep.writer_of_l (h : WriteStep s t) (hne : t.l ≠ s.l) :
    s.st = .round1 ∨ s.st = .round2 ∨
      (s.st = .idle ∧ s.kv = true ∧ ∃ p, offered s = .encrypt p) := by
  cases h with
  | round1 hs => exact .inl hs
  | round2 hs => exact .inr (.inl hs)
  | encrypt hs hk p hd => exact .inr (.inr ⟨hs, hk, p, hd⟩)
  | _ => exact absurd rfl hne

theorem WriteStep.writer_of_r (h : WriteStep s t) (hne : t.r ≠ s.r) :
    s.st = .round1 ∨ (s.st = .idle ∧ s.kv = true ∧ ∃ p, offered s = .encrypt p) := by
  cases h with
  | round1 hs => exact .inl hs
  | encrypt hs hk p hd => exact .inr ⟨hs, hk, p, hd⟩
  | _ => exact absurd rfl hne

theorem WriteStep.writer_of_dout (h : WriteStep s t) (hne : t.dout ≠ s.dout) : s.st = .round2 := by
  cases h with
  | round2 hs => exact hs
  | _ => exact absurd rfl hne

theorem WriteStep.writer_of_fcause (h : WriteStep s t) (hne : t.fcause ≠ s.fcause) :
    s.st = .idle ∧ t.st = .fault := by
  cases h with
  | fault hs => exact ⟨hs, rfl⟩
  | _ => exact absurd rfl hne

theorem WriteStep.writer_of_st (h : WriteStep s t) (hne : t.st ≠ s.st) :
    s.st = .round1 ∨ s.st = .round2 ∨
      (s.st = .idle ∧ s.kv = true ∧ ∃ p, offered s = .encrypt p) ∨
      (s.st = .idle ∧ commandObeys s.kv (offered s) = false ∧ t.st = .fault) := by
  cases h with
  | round1 hs => exact .inl hs
  | round2 hs => exact .inr (.inl hs)
  | encrypt hs hk p hd => exact .inr (.inr (.inl ⟨hs, hk, p, hd⟩))
  | fault hs hbad => exact .inr (.inr (.inr ⟨hs, hbad, rfl⟩))
  | _ => exact absurd rfl hne

theorem WriteStep.writer_of_dv_rise (h : WriteStep s t) (hdv : t.dv = true) :
    s.dv = true ∨ s.st = .round2 := by
  cases h with
  | none | round1 => exact .inl hdv
  | round2 hs => exact .inr hs
  | loadkey | encrypt | fault => cases hdv

theorem WriteStep.writer_of_dv_fall (h : WriteStep s t) (hdv : s.dv = true) (hdv' : t.dv = false) :
    s.st = .idle ∧
      (isLoadkey (offered s) = true ∨ (s.kv = true ∧ ∃ p, offered s = .encrypt p) ∨
        (commandObeys s.kv (offered s) = false ∧ t.st = .fault)) := by
  cases h with
  | none | round1 => exact absurd (hdv.symm.trans hdv') (by decide)
  | round2 => cases hdv'
  | loadkey hs key hload => exact ⟨hs, .inl hload⟩
  | encrypt hs hk p hd => exact ⟨hs, .inr (.inl ⟨hk, p, hd⟩)⟩
  | fault hs hbad => exact ⟨hs, .inr (.inr ⟨hbad, rfl⟩)⟩

/-! The subkeys without their writer (R125). -/

theorem step_keeps_keys (h : step s = .next t) (hr : s.ports.rst = false)
    (hload : ¬ (accepts s = true ∧ isLoadkey (offered s) = true)) :
    t.k1 = s.k1 ∧ t.k2 = s.k2 := by
  by_contra hne
  have hwritten : t.k1 ≠ s.k1 ∨ t.k2 ≠ s.k2 ∨ t.kv ≠ s.kv := (not_and_or.1 hne).imp_right .inl
  obtain ⟨hs, hoffered, -⟩ := (writeStep_of_step h hr).writer_of_keys hwritten
  exact hload ⟨accepts_iff.2 ⟨hr, hs⟩, hoffered⟩

theorem runFor_keeps_keys (n : Nat) (s t : State)
    (halong : Along (fun u => u.ports.rst = false ∧
      ¬ (accepts u = true ∧ isLoadkey (offered u) = true)) n s)
    (h : runFor n s = .next t) : t.k1 = s.k1 ∧ t.k2 = s.k2 := by
  induction n generalizing s with
  | zero => cases h; exact ⟨rfl, rfl⟩
  | succ n ih =>
    obtain ⟨⟨hr, hload⟩, hrest⟩ := halong
    obtain ⟨u, hstep⟩ := exists_step_eq_next s
    rw [runFor_succ hstep] at h
    obtain ⟨hk1, hk2⟩ := step_keeps_keys hstep hr hload
    obtain ⟨hk1', hk2'⟩ := ih u (hrest u hstep) h
    exact ⟨hk1'.trans hk1, hk2'.trans hk2⟩

end Sys2Proof.Safety
end

section
/-! PROOFS. The obligations that are derived from several of the spec's files: the encoding, what
commands keep, the sequencer, reset, and the rules of the whole machine. -/

namespace Sys2Proof.Proofs

open Sys2Proof.Machine Sys2Proof.Safety

/-- Settles O16: an assembled word has the fields that decode reads, and every word is assembled. -/
theorem decodeAndEncodeAgree : Obligations.DecodeAndEncodeAgree :=
  ⟨decode_encode, encode_decode⟩

/-- Settles O48, by the cases of a step: each register update keeps the invariant. -/
theorem registerInvariantIsKept : Obligations.RegisterInvariantIsKept :=
  fun _ _ => Inv.after_step

/-- Settles O52, by induction on the steps: each register update keeps the relation, and the ports
show only what it compares. -/
theorem unspecifiedRegistersNeverMatter : Obligations.UnspecifiedRegistersNeverMatter := by
  intro n s u h
  obtain ⟨s', u', hs, hu, h'⟩ := h.after_runFor n
  exact ⟨s', u', hs, hu, h', h'.ready_eq, h'.status_eq,
    congrArg causeCode h'.fcause, h'.result⟩

/-- Settles O25, by the cases of an execution: nothing, LOADKEY, ENCRYPT with a key, fault entry. -/
theorem commandsKeepWhatTheyDoNotWrite : Obligations.CommandsKeepWhatTheyDoNotWrite := by
  intro i s t h
  rcases exec_cases h with rfl | ⟨key, rfl, rfl⟩ | ⟨p, rfl, hk, rfl⟩ | ⟨c, hc, rfl⟩
  · simp
  · simp
  · simp [hk]
  · refine ⟨rfl, rfl, rfl, fun _ => ⟨rfl, rfl, rfl⟩, fun _ => ⟨rfl, rfl⟩, ?_, ?_, ?_,
      fun _ _ _ => ⟨rfl, rfl⟩⟩
    · rintro arg rfl; cases hc
    · rintro key rfl; cases hc
    · rintro p rfl hk; simp [faultCause, hk] at hc

/-- Settles O30, from the reset step and from the rows of the sequencer's table. -/
theorem sequencerTransitions : Obligations.SequencerTransitions := by
  intro s
  cases hr : s.ports.rst with
  | true => exact ⟨_, step_of_reset hr, rfl⟩
  | false =>
    refine ⟨_, step_eq_clocked hr, ?_⟩
    rw [clocked_st]
    cases hs : s.st with
    | idle =>
      simp only [State.sampled_st, hs]
      exact accept_st (s := s.sampled) hs s.ports.cmd
    | _ => simp [hs]

/-- Settles O33: the two commands are a schedule, so the run of four steps is their two effects. -/
theorem loadThenEncryptGivesTheCiphertext : Obligations.LoadThenEncryptGivesTheCiphertext := by
  intro s key p w1 w2 rest hs hin
  have hrun := runFor_schedule [(.loadkey key, []), (.encrypt p, [w1, w2])] s rest hs
    (by simp [scheduleFits, stepsAfterAccept, commandObeys, isLoadkey, Config.loadkeySteps,
      Config.encryptSteps]) hin
  rw [completedAll, completedAll, completedAll, completed_encrypt_of_key rfl] at hrun
  exact ⟨_, hrun, rfl, status_of_result hs rfl rfl, (State.ready_iff _).2 hs, rfl⟩

/-- Settles O45, register by register from the kinds of write that a step can make. -/
theorem writersOfEachRegister : Obligations.WritersOfEachRegister := by
  intro s t h hr
  have hw := writeStep_of_step h hr
  exact ⟨hw.writer_of_keys, hw.writer_of_l, hw.writer_of_r, hw.writer_of_dout,
    hw.writer_of_fcause, hw.writer_of_st, hw.writer_of_dv_rise, hw.writer_of_dv_fall⟩

/-- Settles O46, by induction on the steps: no step is one of the subkeys' writers. -/
theorem subkeysStayBetweenLoadkeys : Obligations.SubkeysStayBetweenLoadkeys :=
  runFor_keeps_keys

/-- Settles O20: each word is the word of its command. -/
theorem listedWordsDecodeAsListed : Obligations.ListedWordsDecodeAsListed :=
  have of_encode {w : CmdWord} {i : Instr} (h : w = encode i) : decode w = i :=
    decode_eq_iff_eq_encode.2 h
  ⟨of_encode rfl, of_encode rfl, of_encode rfl, of_encode rfl, of_encode rfl, of_encode rfl,
    of_encode rfl, of_encode rfl⟩

/-- Settles O24: the fields select the reserved rows; in IDLE each has a cause and enters the fault
state with it, and outside IDLE no command has an effect. -/
theorem reservedEncodingsFault : Obligations.ReservedEncodingsFault := by
  refine ⟨fun w => ⟨fun hop => ⟨_, decode_eq_reservedBadop hop⟩, fun hop hhigh => ?_⟩,
    fun s => ⟨fun hs => ⟨fun x => ?_, fun x => ?_⟩, fun hs => ⟨fun x => ?_, fun x => ?_⟩⟩⟩
  · refine ⟨blockOperand w, ?_⟩
    rcases twoBits_cases (overField w) with h | h | h | h
    · exact absurd h hhigh
    · exact .inl (decode_eq_reservedBadlen01 hop h)
    · exact .inr (.inl (decode_eq_reservedBadlen10 hop h))
    · exact .inr (.inr (decode_eq_reservedBadlen11 hop h))
  · exact ⟨exec_of_faultCause hs rfl, exec_of_faultCause hs rfl, exec_of_faultCause hs rfl⟩
  · exact exec_of_faultCause hs rfl
  · exact ⟨exec_of_not_idle hs _, exec_of_not_idle hs _, exec_of_not_idle hs _⟩
  · exact exec_of_not_idle hs _

/-- Settles O42, field by field of the reset state. -/
theorem resetStateAsStated : Obligations.ResetStateAsStated :=
  ⟨rfl, rfl, rfl, rfl, rfl, rfl, rfl⟩

/-- Settles O47: no arm of `exec` and no row of the sequencer's table stops. -/
theorem everyStepAnswersANextState : Obligations.EveryStepAnswersANextState :=
  ⟨exists_exec_eq_next, exists_step_eq_next⟩

/-- Settles O49, from the control state at reset. -/
theorem registerInvariantAtReset : Obligations.RegisterInvariantAtReset :=
  inv_of_control_reset rfl rfl rfl rfl

/-- Settles O51: in IDLE with `DV` = 0 no block is answered for. -/
theorem dataInvalidAtReset : Obligations.DataInvalidAtReset :=
  (answersFor_none_iff_of_idle rfl).2 rfl

end Sys2Proof.Proofs
end
